-- ==== Sys2Proof/Word.lean ====
section
/-! DEFINITION. The word types of the RSGF engine (00_scope.md R4, R6): every register, memory word
and field is an unsigned number of a fixed width, bit 0 least significant. -/

namespace Sys2Proof

/-- A scalar register, a data-memory word, a vector entry, an immediate: `XLEN` = 16 bits (R4). -/
abbrev Word := BitVec 16

/-- An instruction word: `ILEN` = 32 bits (R4, R60). Also the data of a host transaction (R47). -/
abbrev Word32 := BitVec 32

/-- An entry of the EXP or the LOG table: 12 bits (R28). -/
abbrev TableEntry := BitVec 12

/-- A polynomial or a raw list: highest degree (or lowest address) first (R9, R14, R130). -/
abbrev Poly := List Word

end Sys2Proof
end

