-- ==== Sys2Proof/Syntax.lean ====
section
/-! DEFINITION. The instructions of the RSGF command set 1.0 (30_encoding.md R65): one constructor
per row of the opcode map, operands in the order of the fields `d`, `a`, `b`, `c`, `imm16`
restricted to the fields the row uses. -/

namespace Sys2Proof

/-- A scalar register number `x0`..`x15` (R11, R63: all sixteen values are legal). -/
abbrev XReg := Fin 16

/-- A vector register number `v0`..`v7` (R14, R63). -/
abbrev VReg := Fin 8

/-- The 46 instructions of R65. -/
inductive Instr where
  /-- `NOP` (R81). -/
  | nop
  /-- `HALT` (R82). -/
  | halt
  /-- `LI xd, imm` (R83). -/
  | li (d : XReg) (imm : Word)
  /-- `MOV xd, xs` (R84). -/
  | mov (d a : XReg)
  /-- `ADD xd, xs1, xs2` (R85). -/
  | add (d a b : XReg)
  /-- `SUB xd, xs1, xs2` (R86). -/
  | sub (d a b : XReg)
  /-- `ADDI xd, xs, imm` (R87). -/
  | addi (d a : XReg) (imm : Word)
  /-- `JMP target` (R88). -/
  | jmp (target : Word)
  /-- `BEQ xs1, xs2, target` (R89). -/
  | beq (d a : XReg) (target : Word)
  /-- `BNE xs1, xs2, target` (R90). -/
  | bne (d a : XReg) (target : Word)
  /-- `BLTU xs1, xs2, target` (R91). -/
  | bltu (d a : XReg) (target : Word)
  /-- `LDW xd, off(xbase)` (R92). -/
  | ldw (d a : XReg) (offset : Word)
  /-- `STW xs, off(xbase)`: `d` is the register stored (R93). -/
  | stw (d a : XReg) (offset : Word)
  /-- `CSRR xd, csr` (R94). -/
  | csrr (d : XReg) (csr : Word)
  /-- `CSRW csr, xs` (R95). -/
  | csrw (a : XReg) (csr : Word)
  /-- `GFINIT` (R116). -/
  | gfinit
  /-- `GFADD xd, xs1, xs2` (R119). -/
  | gfadd (d a b : XReg)
  /-- `GFMUL xd, xs1, xs2` (R120). -/
  | gfmul (d a b : XReg)
  /-- `GFINV xd, xs` (R121). -/
  | gfinv (d a : XReg)
  /-- `GFEXP xd, xs` (R122). -/
  | gfexp (d a : XReg)
  /-- `GFLOG xd, xs` (R123). -/
  | gflog (d a : XReg)
  /-- `VLD vd, xbase, xlen` (R140). -/
  | vld (d : VReg) (a b : XReg)
  /-- `VST vs, xbase`: `d` is the vector stored (R141). -/
  | vst (d : VReg) (a : XReg)
  /-- `VLEN xd, vs` (R142). -/
  | vlen (d : XReg) (a : VReg)
  /-- `VGET xd, vs, xidx` (R143). -/
  | vget (d : XReg) (a : VReg) (b : XReg)
  /-- `VMOV vd, vs` (R144). -/
  | vmov (d a : VReg)
  /-- `PNORM vd, vs` (R145). -/
  | pnorm (d a : VReg)
  /-- `PMONO vd, xdeg, xcoef` (R146). -/
  | pmono (d : VReg) (a b : XReg)
  /-- `PDEG xd, vs` (R147). -/
  | pdeg (d : XReg) (a : VReg)
  /-- `PCOEF xd, vs, xdeg` (R148). -/
  | pcoef (d : XReg) (a : VReg) (b : XReg)
  /-- `PISZ xd, vs` (R149). -/
  | pisz (d : XReg) (a : VReg)
  /-- `PADD vd, vs1, vs2` (R150). -/
  | padd (d a b : VReg)
  /-- `PMUL vd, vs1, vs2` (R151). -/
  | pmul (d a b : VReg)
  /-- `PSCALE vd, vs, xscalar` (R152). -/
  | pscale (d a : VReg) (b : XReg)
  /-- `PMULM vd, vs, xdeg, xcoef` (R153). -/
  | pmulm (d a : VReg) (b c : XReg)
  /-- `PDIV vq, vr, vdividend, vdivisor` (R154). -/
  | pdiv (d a b c : VReg)
  /-- `PEVAL xd, vs, xpoint` (R155). -/
  | peval (d : XReg) (a : VReg) (b : XReg)
  /-- `RSGEN xdeg` (R173). -/
  | rsgen (a : XReg)
  /-- `PGEN vd, xdeg` (R174). -/
  | pgen (d : VReg) (a : XReg)
  /-- `RSENC xbase, xlen, xec` (R175). -/
  | rsenc (a b c : XReg)
  /-- `RSSYN vd, xbase, xlen, xtwos` (R186). -/
  | rssyn (d : VReg) (a b c : XReg)
  /-- `RSEUC vsigma, vomega, vsyn, xtwos` (R187). -/
  | rseuc (d a b : VReg) (c : XReg)
  /-- `RSCHIEN vloc, vsigma` (R188). -/
  | rschien (d a : VReg)
  /-- `RSFORN vmag, vomega, vloc` (R189). -/
  | rsforn (d a b : VReg)
  /-- `RSCORR vloc, vmag, xbase, xlen` (R190). -/
  | rscorr (d a : VReg) (b c : XReg)
  /-- `RSDEC xcount, xbase, xlen, xtwos` (R192). -/
  | rsdec (d a b c : XReg)
  deriving DecidableEq, Repr

end Sys2Proof
end

