-- ==== Sys2Proof/WellFormed.lean ====
section
/-! DEFINITION. What makes a term of `Instr` an instruction of the command set, beyond what its
types say: the two instructions with two destinations name two different registers (30_encoding.md
R63, R67 case 4). That a vector field is below 8 and a scalar field below 16 is in the types. -/

namespace Sys2Proof

/-- R63: "The two instructions with two destinations (`PDIV`, `RSEUC`) require `d != a`." Every other
instruction is well formed with every operand its types admit. -/
def Instr.wellFormed : Instr → Bool
  | .pdiv d a _ _ => d != a
  | .rseuc d a _ _ => d != a
  | .nop | .halt | .li .. | .mov .. | .add .. | .sub .. | .addi .. | .jmp .. | .beq .. | .bne ..
  | .bltu .. | .ldw .. | .stw .. | .csrr .. | .csrw .. | .gfinit | .gfadd .. | .gfmul .. | .gfinv ..
  | .gfexp .. | .gflog .. | .vld .. | .vst .. | .vlen .. | .vget .. | .vmov .. | .pnorm .. | .pmono ..
  | .pdeg .. | .pcoef .. | .pisz .. | .padd .. | .pmul .. | .pscale .. | .pmulm .. | .peval ..
  | .rsgen .. | .pgen .. | .rsenc .. | .rssyn .. | .rschien .. | .rsforn .. | .rscorr .. | .rsdec .. => true

end Sys2Proof
end

