-- ==== Sys2Proof/Decode.lean ====
section
/-! DEFINITION. Decoding (30_encoding.md R60 to R71), total on all 2^32 words, and the encoder,
written from the same opcode map (R65). The kinds of an illegal word are named apart, in the order
of R67; executing any of them raises the one trap `IllegalInstruction`. -/

namespace Sys2Proof

/-- Why a word is no instruction: the four cases of R67, checked in this order (R71). -/
inductive DecodeError where
  /-- R67 (1): the opcode is not in R65. Safe: the trap of the rule is taken. -/
  | noSuchOpcode
  /-- R67 (2): a field the row leaves unused is not zero. Safe. -/
  | unusedFieldSet
  /-- R67 (3): a field that names a vector register holds 8 to 15. Safe. -/
  | vectorFieldOutOfRange
  /-- R67 (4): `PDIV` or `RSEUC` with `d = a`. Safe. -/
  | sameDestinations
  deriving DecidableEq, Repr

/-- `op = w[31:24]` (R62). -/
def fieldOp (w : Word32) : BitVec 8 := w.extractLsb' 24 8
/-- `d = w[23:20]` (R62). -/
def fieldD (w : Word32) : BitVec 4 := w.extractLsb' 20 4
/-- `a = w[19:16]` (R62). -/
def fieldA (w : Word32) : BitVec 4 := w.extractLsb' 16 4
/-- `b = w[15:12]` (R62). -/
def fieldB (w : Word32) : BitVec 4 := w.extractLsb' 12 4
/-- `c = w[11:8]` (R62). -/
def fieldC (w : Word32) : BitVec 4 := w.extractLsb' 8 4
/-- `low8 = w[7:0]` (R62). -/
def fieldLow8 (w : Word32) : BitVec 8 := w.extractLsb' 0 8
/-- `imm16 = w[15:0]` (R62). -/
def fieldImm (w : Word32) : Word := w.extractLsb' 0 16

/-- The scalar register a 4-bit field names (R63: all sixteen values are legal). -/
def xField (f : BitVec 4) : XReg := ⟨f.toNat, f.isLt⟩

/-- The vector register a 4-bit field names, by its low three bits: used after the check that the
field is below 8 (R63, R67 case 3). -/
def vField (f : BitVec 4) : VReg := ⟨f.toNat % 8, Nat.mod_lt _ (by decide)⟩

/-- The checks (2), (3), (4) of R67 in the order of R71: `unused` says every unused field is zero,
`vectors` are the fields that name a vector register, `distinct` says the two destinations differ. -/
def checked (unused : Bool) (vectors : List (BitVec 4)) (distinct : Bool) (i : Instr) :
    Except DecodeError Instr :=
  if unused = false then .error .unusedFieldSet
  else if vectors.any (fun f => 8 ≤ f.toNat) then .error .vectorFieldOutOfRange
  else if distinct = false then .error .sameDestinations
  else .ok i

/-- Format N leaves bits 23:0 unused (R61). -/
def zeroN (w : Word32) : Bool := w.extractLsb' 0 24 == 0#24
/-- Format R with `b`, `c`, `low8` unused. -/
def zeroBC (w : Word32) : Bool := fieldB w == 0#4 && fieldC w == 0#4 && fieldLow8 w == 0#8
/-- Format R with `c`, `low8` unused. -/
def zeroC (w : Word32) : Bool := fieldC w == 0#4 && fieldLow8 w == 0#8
/-- Format R with `low8` unused. -/
def zeroLow (w : Word32) : Bool := fieldLow8 w == 0#8
/-- The `d` field unused. -/
def zeroD (w : Word32) : Bool := fieldD w == 0#4
/-- The `a` field unused. -/
def zeroA (w : Word32) : Bool := fieldA w == 0#4

/-- Decoding of one instruction word (R71). Total; no state. -/
def decode (w : Word32) : Except DecodeError Instr :=
  let d := fieldD w
  let a := fieldA w
  let b := fieldB w
  let c := fieldC w
  let imm := fieldImm w
  match (fieldOp w).toNat with
  | 0x01 => checked (zeroN w) [] true .nop
  | 0x02 => checked (zeroN w) [] true .halt
  | 0x03 => checked (zeroA w) [] true (.li (xField d) imm)
  | 0x04 => checked (zeroBC w) [] true (.mov (xField d) (xField a))
  | 0x05 => checked (zeroC w) [] true (.add (xField d) (xField a) (xField b))
  | 0x06 => checked (zeroC w) [] true (.sub (xField d) (xField a) (xField b))
  | 0x07 => checked true [] true (.addi (xField d) (xField a) imm)
  | 0x08 => checked (zeroD w && zeroA w) [] true (.jmp imm)
  | 0x09 => checked true [] true (.beq (xField d) (xField a) imm)
  | 0x0A => checked true [] true (.bne (xField d) (xField a) imm)
  | 0x0B => checked true [] true (.bltu (xField d) (xField a) imm)
  | 0x0C => checked true [] true (.ldw (xField d) (xField a) imm)
  | 0x0D => checked true [] true (.stw (xField d) (xField a) imm)
  | 0x0E => checked (zeroA w) [] true (.csrr (xField d) imm)
  | 0x0F => checked (zeroD w) [] true (.csrw (xField a) imm)
  | 0x10 => checked (zeroN w) [] true .gfinit
  | 0x11 => checked (zeroC w) [] true (.gfadd (xField d) (xField a) (xField b))
  | 0x12 => checked (zeroC w) [] true (.gfmul (xField d) (xField a) (xField b))
  | 0x13 => checked (zeroBC w) [] true (.gfinv (xField d) (xField a))
  | 0x14 => checked (zeroBC w) [] true (.gfexp (xField d) (xField a))
  | 0x15 => checked (zeroBC w) [] true (.gflog (xField d) (xField a))
  | 0x20 => checked (zeroC w) [d] true (.vld (vField d) (xField a) (xField b))
  | 0x21 => checked (zeroBC w) [d] true (.vst (vField d) (xField a))
  | 0x22 => checked (zeroBC w) [a] true (.vlen (xField d) (vField a))
  | 0x23 => checked (zeroC w) [a] true (.vget (xField d) (vField a) (xField b))
  | 0x24 => checked (zeroBC w) [d, a] true (.vmov (vField d) (vField a))
  | 0x25 => checked (zeroBC w) [d, a] true (.pnorm (vField d) (vField a))
  | 0x26 => checked (zeroC w) [d] true (.pmono (vField d) (xField a) (xField b))
  | 0x27 => checked (zeroBC w) [a] true (.pdeg (xField d) (vField a))
  | 0x28 => checked (zeroC w) [a] true (.pcoef (xField d) (vField a) (xField b))
  | 0x29 => checked (zeroBC w) [a] true (.pisz (xField d) (vField a))
  | 0x2A => checked (zeroC w) [d, a, b] true (.padd (vField d) (vField a) (vField b))
  | 0x2B => checked (zeroC w) [d, a, b] true (.pmul (vField d) (vField a) (vField b))
  | 0x2C => checked (zeroC w) [d, a] true (.pscale (vField d) (vField a) (xField b))
  | 0x2D => checked (zeroLow w) [d, a] true (.pmulm (vField d) (vField a) (xField b) (xField c))
  | 0x2E => checked (zeroLow w) [d, a, b, c] (d != a)
      (.pdiv (vField d) (vField a) (vField b) (vField c))
  | 0x2F => checked (zeroC w) [a] true (.peval (xField d) (vField a) (xField b))
  | 0x30 => checked (zeroD w && zeroBC w) [] true (.rsgen (xField a))
  | 0x31 => checked (zeroBC w) [d] true (.pgen (vField d) (xField a))
  | 0x32 => checked (zeroD w && zeroLow w) [] true (.rsenc (xField a) (xField b) (xField c))
  | 0x40 => checked (zeroLow w) [d] true (.rssyn (vField d) (xField a) (xField b) (xField c))
  | 0x41 => checked (zeroLow w) [d, a, b] (d != a)
      (.rseuc (vField d) (vField a) (vField b) (xField c))
  | 0x42 => checked (zeroBC w) [d, a] true (.rschien (vField d) (vField a))
  | 0x43 => checked (zeroC w) [d, a, b] true (.rsforn (vField d) (vField a) (vField b))
  | 0x44 => checked (zeroLow w) [d, a] true (.rscorr (vField d) (vField a) (xField b) (xField c))
  | 0x45 => checked (zeroLow w) [] true (.rsdec (xField d) (xField a) (xField b) (xField c))
  | _ => .error .noSuchOpcode

/-- The 4-bit field that names a scalar register. -/
def xBits (r : XReg) : BitVec 4 := BitVec.ofNat 4 r.val
/-- The 4-bit field that names a vector register. -/
def vBits (r : VReg) : BitVec 4 := BitVec.ofNat 4 r.val

/-- Format N (R61). -/
def wordN (op : BitVec 8) : Word32 := op ++ 0#24
/-- Format R (R61). -/
def wordR (op : BitVec 8) (d a b c : BitVec 4) : Word32 := op ++ (d ++ (a ++ (b ++ (c ++ 0#8))))
/-- Format I (R61). -/
def wordI (op : BitVec 8) (d a : BitVec 4) (imm : Word) : Word32 := op ++ (d ++ (a ++ imm))

/-- The word of an instruction (R61, R65), unused fields zero (R67). -/
def encode : Instr → Word32
  | .nop => wordN 0x01#8
  | .halt => wordN 0x02#8
  | .li d imm => wordI 0x03#8 (xBits d) 0#4 imm
  | .mov d a => wordR 0x04#8 (xBits d) (xBits a) 0#4 0#4
  | .add d a b => wordR 0x05#8 (xBits d) (xBits a) (xBits b) 0#4
  | .sub d a b => wordR 0x06#8 (xBits d) (xBits a) (xBits b) 0#4
  | .addi d a imm => wordI 0x07#8 (xBits d) (xBits a) imm
  | .jmp target => wordI 0x08#8 0#4 0#4 target
  | .beq d a target => wordI 0x09#8 (xBits d) (xBits a) target
  | .bne d a target => wordI 0x0A#8 (xBits d) (xBits a) target
  | .bltu d a target => wordI 0x0B#8 (xBits d) (xBits a) target
  | .ldw d a offset => wordI 0x0C#8 (xBits d) (xBits a) offset
  | .stw d a offset => wordI 0x0D#8 (xBits d) (xBits a) offset
  | .csrr d csr => wordI 0x0E#8 (xBits d) 0#4 csr
  | .csrw a csr => wordI 0x0F#8 0#4 (xBits a) csr
  | .gfinit => wordN 0x10#8
  | .gfadd d a b => wordR 0x11#8 (xBits d) (xBits a) (xBits b) 0#4
  | .gfmul d a b => wordR 0x12#8 (xBits d) (xBits a) (xBits b) 0#4
  | .gfinv d a => wordR 0x13#8 (xBits d) (xBits a) 0#4 0#4
  | .gfexp d a => wordR 0x14#8 (xBits d) (xBits a) 0#4 0#4
  | .gflog d a => wordR 0x15#8 (xBits d) (xBits a) 0#4 0#4
  | .vld d a b => wordR 0x20#8 (vBits d) (xBits a) (xBits b) 0#4
  | .vst d a => wordR 0x21#8 (vBits d) (xBits a) 0#4 0#4
  | .vlen d a => wordR 0x22#8 (xBits d) (vBits a) 0#4 0#4
  | .vget d a b => wordR 0x23#8 (xBits d) (vBits a) (xBits b) 0#4
  | .vmov d a => wordR 0x24#8 (vBits d) (vBits a) 0#4 0#4
  | .pnorm d a => wordR 0x25#8 (vBits d) (vBits a) 0#4 0#4
  | .pmono d a b => wordR 0x26#8 (vBits d) (xBits a) (xBits b) 0#4
  | .pdeg d a => wordR 0x27#8 (xBits d) (vBits a) 0#4 0#4
  | .pcoef d a b => wordR 0x28#8 (xBits d) (vBits a) (xBits b) 0#4
  | .pisz d a => wordR 0x29#8 (xBits d) (vBits a) 0#4 0#4
  | .padd d a b => wordR 0x2A#8 (vBits d) (vBits a) (vBits b) 0#4
  | .pmul d a b => wordR 0x2B#8 (vBits d) (vBits a) (vBits b) 0#4
  | .pscale d a b => wordR 0x2C#8 (vBits d) (vBits a) (xBits b) 0#4
  | .pmulm d a b c => wordR 0x2D#8 (vBits d) (vBits a) (xBits b) (xBits c)
  | .pdiv d a b c => wordR 0x2E#8 (vBits d) (vBits a) (vBits b) (vBits c)
  | .peval d a b => wordR 0x2F#8 (xBits d) (vBits a) (xBits b) 0#4
  | .rsgen a => wordR 0x30#8 0#4 (xBits a) 0#4 0#4
  | .pgen d a => wordR 0x31#8 (vBits d) (xBits a) 0#4 0#4
  | .rsenc a b c => wordR 0x32#8 0#4 (xBits a) (xBits b) (xBits c)
  | .rssyn d a b c => wordR 0x40#8 (vBits d) (xBits a) (xBits b) (xBits c)
  | .rseuc d a b c => wordR 0x41#8 (vBits d) (vBits a) (vBits b) (xBits c)
  | .rschien d a => wordR 0x42#8 (vBits d) (vBits a) 0#4 0#4
  | .rsforn d a b => wordR 0x43#8 (vBits d) (vBits a) (vBits b) 0#4
  | .rscorr d a b c => wordR 0x44#8 (vBits d) (vBits a) (xBits b) (xBits c)
  | .rsdec d a b c => wordR 0x45#8 (xBits d) (xBits a) (xBits b) (xBits c)

/-! ### The opcode map as a table (R65, R66) -/

/-- A row of R65 as R66 reads it. -/
structure OpcodeRow where
  /-- The opcode, bits 31:24. -/
  op : BitVec 8
  /-- The mnemonic. -/
  mnemonic : String
  /-- The bits the row does not use, which must be zero (R67 case 2). -/
  unused : Word32
  /-- Bit 3 of every field that names a vector register (R67 case 3). -/
  vectors : Word32
  /-- Do the fields `d` and `a` name two destinations, which must differ (R67 case 4)? -/
  distinct : Bool
  deriving DecidableEq, Repr

/-- `match = op << 24` (R66). -/
def OpcodeRow.pattern (r : OpcodeRow) : Word32 := r.op ++ 0#24

/-- `mask` of opcode_table.json: the opcode, the unused bits and bit 3 of the vector fields (R66). -/
def OpcodeRow.mask (r : OpcodeRow) : Word32 := 0xFF000000#32 ||| r.unused ||| r.vectors

/-- Is `w` the instruction of this row (R66)? The `d != a` rule comes after the match. -/
def OpcodeRow.matchesWord (r : OpcodeRow) (w : Word32) : Bool :=
  w &&& r.mask == r.pattern && !(r.distinct && fieldD w == fieldA w)

/-- The rows `0x0_` of R65: sequencer and control. -/
def controlRows : List OpcodeRow := [
  ⟨0x01, "NOP", 0xFFFFFF, 0x000000, false⟩,
  ⟨0x02, "HALT", 0xFFFFFF, 0x000000, false⟩,
  ⟨0x03, "LI", 0x0F0000, 0x000000, false⟩,
  ⟨0x04, "MOV", 0x00FFFF, 0x000000, false⟩,
  ⟨0x05, "ADD", 0x000FFF, 0x000000, false⟩,
  ⟨0x06, "SUB", 0x000FFF, 0x000000, false⟩,
  ⟨0x07, "ADDI", 0x000000, 0x000000, false⟩,
  ⟨0x08, "JMP", 0xFF0000, 0x000000, false⟩,
  ⟨0x09, "BEQ", 0x000000, 0x000000, false⟩,
  ⟨0x0A, "BNE", 0x000000, 0x000000, false⟩,
  ⟨0x0B, "BLTU", 0x000000, 0x000000, false⟩,
  ⟨0x0C, "LDW", 0x000000, 0x000000, false⟩,
  ⟨0x0D, "STW", 0x000000, 0x000000, false⟩,
  ⟨0x0E, "CSRR", 0x0F0000, 0x000000, false⟩,
  ⟨0x0F, "CSRW", 0xF00000, 0x000000, false⟩]

/-- The rows `0x1_` of R65: field scalar. -/
def fieldRows : List OpcodeRow := [
  ⟨0x10, "GFINIT", 0xFFFFFF, 0x000000, false⟩,
  ⟨0x11, "GFADD", 0x000FFF, 0x000000, false⟩,
  ⟨0x12, "GFMUL", 0x000FFF, 0x000000, false⟩,
  ⟨0x13, "GFINV", 0x00FFFF, 0x000000, false⟩,
  ⟨0x14, "GFEXP", 0x00FFFF, 0x000000, false⟩,
  ⟨0x15, "GFLOG", 0x00FFFF, 0x000000, false⟩]

/-- The rows `0x2_` of R65: vector and polynomial. -/
def vectorRows : List OpcodeRow := [
  ⟨0x20, "VLD", 0x000FFF, 0x800000, false⟩,
  ⟨0x21, "VST", 0x00FFFF, 0x800000, false⟩,
  ⟨0x22, "VLEN", 0x00FFFF, 0x080000, false⟩,
  ⟨0x23, "VGET", 0x000FFF, 0x080000, false⟩,
  ⟨0x24, "VMOV", 0x00FFFF, 0x880000, false⟩,
  ⟨0x25, "PNORM", 0x00FFFF, 0x880000, false⟩,
  ⟨0x26, "PMONO", 0x000FFF, 0x800000, false⟩,
  ⟨0x27, "PDEG", 0x00FFFF, 0x080000, false⟩,
  ⟨0x28, "PCOEF", 0x000FFF, 0x080000, false⟩,
  ⟨0x29, "PISZ", 0x00FFFF, 0x080000, false⟩,
  ⟨0x2A, "PADD", 0x000FFF, 0x888000, false⟩,
  ⟨0x2B, "PMUL", 0x000FFF, 0x888000, false⟩,
  ⟨0x2C, "PSCALE", 0x000FFF, 0x880000, false⟩,
  ⟨0x2D, "PMULM", 0x0000FF, 0x880000, false⟩,
  ⟨0x2E, "PDIV", 0x0000FF, 0x888800, true⟩,
  ⟨0x2F, "PEVAL", 0x000FFF, 0x080000, false⟩]

/-- The rows `0x3_` and `0x4_` of R65: encoder and decoder. -/
def reedSolomonRows : List OpcodeRow := [
  ⟨0x30, "RSGEN", 0xF0FFFF, 0x000000, false⟩,
  ⟨0x31, "PGEN", 0x00FFFF, 0x800000, false⟩,
  ⟨0x32, "RSENC", 0xF000FF, 0x000000, false⟩,
  ⟨0x40, "RSSYN", 0x0000FF, 0x800000, false⟩,
  ⟨0x41, "RSEUC", 0x0000FF, 0x888000, true⟩,
  ⟨0x42, "RSCHIEN", 0x00FFFF, 0x880000, false⟩,
  ⟨0x43, "RSFORN", 0x000FFF, 0x888000, false⟩,
  ⟨0x44, "RSCORR", 0x0000FF, 0x880000, false⟩,
  ⟨0x45, "RSDEC", 0x0000FF, 0x000000, false⟩]

/-- The 46 rows of R65. -/
def opcodeRows : List OpcodeRow := controlRows ++ fieldRows ++ vectorRows ++ reedSolomonRows

/-- The instruction the decoder reads from the bits `w` of an opcode-table row of `nbits` bits; the
word is one IMEM word, bit 0 its least significant bit (R6, R60), bits above `nbits` zero. -/
def decodeTableWord (nbits w : Nat) : Option Instr :=
  match decode (BitVec.ofNat 32 (w % 2 ^ nbits)) with
  | .ok i => some i
  | .error _ => none

end Sys2Proof
end

