-- ==== Sys2Proof/Config.lean ====
section
/-! DEFINITION. The implementation parameters of 00_scope.md R4 with the values the rule gives, and
the free values: constants without a body, so nothing can be proved of which value they have. -/

namespace Sys2Proof.Config

/-- `VMAX`: the largest number of entries a vector register holds (R4). -/
abbrev vmax : Nat := 4096

/-- `DMEM_WORDS` (R4). -/
abbrev dmemWords : Nat := 4096

/-- `IMEM_WORDS` (R4). -/
abbrev imemWords : Nat := 1024

/-- `NX`: the number of scalar registers (R4). -/
abbrev nx : Nat := 16

/-- `NV`: the number of vector registers (R4). -/
abbrev nv : Nat := 8

/-- `M_MAX`: the largest field exponent (R4). -/
abbrev mMax : Nat := 12

/-- What DMEM word `addr` holds after the `cycle`-th hardware reset until it is written: unspecified
and stable (R33, R250; U11). A free value: log 2, DEDUCED, safe. -/
opaque dmemPowerOn (cycle addr : Nat) : Word

/-- What IMEM word `addr` holds after the `cycle`-th hardware reset until it is written: unspecified
and stable (R33, R250; U10). A free value: log 2, DEDUCED, safe. -/
opaque imemPowerOn (cycle addr : Nat) : Word32

/-- An EXP entry the table does not hold (R28: unspecified; U12: no agent can read one). A free
value: log 4, DEDUCED, safe. -/
opaque staleExp (index : Nat) : TableEntry

/-- A LOG entry the table does not hold (R28: unspecified; U12: no agent can read one). A free
value: log 4, DEDUCED, safe. -/
opaque staleLog (index : Nat) : TableEntry

end Sys2Proof.Config
end

