-- ==== Sys2Proof/Machine/State.lean ====
section
/-! DEFINITION. The architectural state of the RSGF engine (10_state.md R11 to R30), the events of the
outside agents (20_memory.md R47, 70_reset_and_hazards.md R250), and the state after hardware
reset (R33). -/

namespace Sys2Proof.Machine

/-- A word-addressed memory (R30, R44): the words written since the last hardware reset, as
(address, word) pairs in strictly rising order of address. A word not listed was not written and
holds the unspecified value of R250 (`readImem`, `readDmem` in Ops.lean). Logs 2 and 5. -/
abbrev Memory (width : Nat) := List (Nat × BitVec width)

/-- `STATUS.STATE` (R21). -/
inductive RunState where
  /-- 0: not started, or cleared. -/
  | idle
  /-- 1: the sequencer is executing. -/
  | run
  /-- 2: a `HALT` was executed. -/
  | halted
  /-- 3: a trap was taken. -/
  | faulted
  deriving DecidableEq, Repr

/-- The 17 trap causes of 60_exceptions.md R220. -/
inductive Cause where
  /-- 1: the fetched word is illegal (R67). -/
  | illegalInstruction
  /-- 2: `pc >= 1024` at fetch (R80). -/
  | imemBounds
  /-- 3: a DMEM address or run lies outside `0..4095` (R43). -/
  | dmemBounds
  /-- 4: a CSR a program may not access so (R94, R95). -/
  | csrAccess
  /-- 5: `GFINIT` finds the field parameters illegal (R116). -/
  | gfConfig
  /-- 6: a field instruction with `VALID = 0` (R110). -/
  | gfNotReady
  /-- 7: a value used as a field element or table index is not below `size` (R111). -/
  | operandRange
  /-- 8: inverse or logarithm of zero (R121, R123, R184, R190). -/
  | gfArith
  /-- 9: a vector register read as a polynomial is empty (R139). -/
  | polyEmpty
  /-- 10: polynomial division by zero (R137). -/
  | polyDivZero
  /-- 11: a result would need more than `VMAX` entries (R135, R136). -/
  | vecOverflow
  /-- 12: `VGET` index not below the length (R143). -/
  | vecIndex
  /-- 13: a Reed-Solomon length parameter is unusable (R175, R186, R190, R192). -/
  | rsParam
  /-- 14: the Euclidean step finds a zero previous remainder (R182). -/
  | rsEuclidZero
  /-- 15: the final `t` has constant term 0 (R182). -/
  | rsSigmaZero
  /-- 16: the Chien search finds a number of roots other than the degree (R183). -/
  | rsLocatorMismatch
  /-- 17: a correction position is negative (R185). -/
  | rsBadLocation
  deriving DecidableEq, Repr

/-- What an outside agent does between two steps of the sequencer (R48, R49, R250; H6 of
95_test_vectors.md), as plain data: log 1. -/
inductive HostEvent where
  /-- The host lets the sequencer take its next step. -/
  | pass
  /-- `HostRead(h)` (R47). -/
  | read (h : Word)
  /-- `HostWrite(h, d)` (R47). -/
  | write (h : Word) (d : Word32)
  /-- The reset input is asserted and released (R250). -/
  | hardReset
  deriving DecidableEq, Repr

/-- What the host port answered to the last transaction (R47): log 1. -/
inductive HostReply where
  /-- No transaction has been made. -/
  | silent
  /-- A read completed with this 32-bit value. -/
  | data (d : Word32)
  /-- A write completed. -/
  | done
  /-- The transaction was refused: no state change, no data (R49). -/
  | refused
  deriving DecidableEq, Repr

/-- The machine. The fields down to `dmem` are the spec's; the last three are the model's own. -/
structure State where
  /-- `x0`..`x15` (R11). -/
  x : Vector Word 16
  /-- `v0`..`v7`: lists of 0 to `VMAX` entries (R14). -/
  v : Vector Poly 8
  /-- The program counter (R12), also CSR `PC` (R27). -/
  pc : Word
  /-- `GF_PRIM.PRIM` (R16). -/
  gfPrim : BitVec 13
  /-- `GF_SIZE.SIZE` (R17). -/
  gfSize : BitVec 13
  /-- `GF_BASE.BASE` (R18). -/
  gfBase : BitVec 12
  /-- `GF_STATUS.VALID` (R19). -/
  gfValid : Bool
  /-- `GEN_TOP` (R20). -/
  genTop : BitVec 12
  /-- `STATUS.STATE` (R21). -/
  runState : RunState
  /-- `CAUSE` (R22). -/
  cause : BitVec 5
  /-- `EPC` (R23). -/
  epc : Word
  /-- `EINFO` (R24). -/
  einfo : Word32
  /-- `CTRL.IE` (R25). -/
  irqEnable : Bool
  /-- `ENTRY` (R26). -/
  entry : Word
  /-- The EXP table, entry 0 first (R28). -/
  expTable : List TableEntry
  /-- The LOG table, entry 0 first (R28). -/
  logTable : List TableEntry
  /-- The generator cache `GEN[0], GEN[1], ...` (R29). -/
  genCache : List Poly
  /-- The instruction memory (R30, R41). -/
  imem : Memory 32
  /-- The data memory (R30, R42). -/
  dmem : Memory 16
  /-- The MODEL's own: what the host and the reset input do next, first event first (log 1). -/
  hostQueue : List HostEvent
  /-- The MODEL's own: the host port's last answer (log 1). -/
  hostReply : HostReply
  /-- The MODEL's own: which hardware reset unwritten memory words stem from (log 3). -/
  powerCycle : Nat
  deriving DecidableEq, Repr

/-- No step of this machine ends in a fault: "No input leads to an undefined state; a model's step
function is total" (R237). Every failure of the spec is a trap, which is a next state (R225). So
this type has no constructor (log 12). -/
inductive Fault where
  deriving DecidableEq, Repr

/-- No meaning of this model refuses; the one constructor is the host's fixed name for an
instruction without a meaning, and no arm of `exec` uses it (log 12). -/
inductive Refusal where
  /-- Raised by no meaning. It would stand for an instruction without a meaning: safe. -/
  | notModelled (mnemonic : String)
  deriving DecidableEq, Repr

/-- The state after hardware reset (R33, R250). IMEM and DMEM list no word: each holds its unspecified
value; the tables hold no entry: unspecified and unreadable while `VALID = 0`. The last three
fields, which the spec does not have, are DESIGN CHOICE (logs 1, 3). -/
def State.reset : State where
  x := Vector.replicate 16 0#16
  v := Vector.replicate 8 []
  pc := 0#16
  gfPrim := 0#13
  gfSize := 0#13
  gfBase := 0#12
  gfValid := false
  genTop := 0#12
  runState := .idle
  cause := 0#5
  epc := 0#16
  einfo := 0#32
  irqEnable := false
  entry := 0#16
  expTable := []
  logTable := []
  genCache := [[1#16]]
  imem := []
  dmem := []
  hostQueue := []
  hostReply := .silent
  powerCycle := 0

end Sys2Proof.Machine
end

