-- ==== Sys2Proof/Machine/Ops.lean ====
section
/-! DEFINITION. The named operations over registers and memories, trap entry (60_exceptions.md R225)
and the ways out of it (R226, R250, R251), and the two ways an instruction ends (R80). -/

namespace Sys2Proof.Machine

/-! ### Word-addressed memory (10_state.md R30, 20_memory.md R41, R42) -/

/-- The word written at address `a` since the last hardware reset, if any. -/
def Memory.lookup {w : Nat} : Memory w → Nat → Option (BitVec w)
  | [], _ => none
  | (k, b) :: rest, a => if k = a then some b else Memory.lookup rest a

/-- Writes the word at address `a`, keeping the addresses strictly rising. -/
def Memory.write {w : Nat} : Memory w → Nat → BitVec w → Memory w
  | [], a, b => [(a, b)]
  | (k, c) :: rest, a, b =>
    if a < k then (a, b) :: (k, c) :: rest
    else if a = k then (a, b) :: rest
    else (k, c) :: Memory.write rest a b

/-- The addresses rise strictly and none is below `lo`. -/
def Memory.risingFrom {w : Nat} : Nat → Memory w → Bool
  | _, [] => true
  | lo, (k, _) :: rest => decide (lo ≤ k) && Memory.risingFrom (k + 1) rest

/-- The canonical form of a memory of `size` words: addresses strictly rising and inside the space. A
listed word is a written one; an unlisted word reads as a free value, which no written word is
known to equal, so equal written contents are equal lists (log 2). -/
def Memory.wf {w : Nat} (size : Nat) (m : Memory w) : Bool :=
  Memory.risingFrom 0 m && m.all fun c => decide (c.1 < size)

/-! ### Registers -/

/-- `x[r]` (R7, R11): no register is hardwired. -/
def State.readX (s : State) (r : XReg) : Word := s.x[r.val]

/-- `x[r] <- value` (R7, R11). -/
def State.writeX (s : State) (r : XReg) (value : Word) : State :=
  { s with x := s.x.set r.val value }

/-- `v[r]` (R7, R14). -/
def State.readV (s : State) (r : VReg) : Poly := s.v[r.val]

/-- `v[r] <- L`: the whole list is replaced (R7, R130). -/
def State.writeV (s : State) (r : VReg) (value : Poly) : State :=
  { s with v := s.v.set r.val value }

/-! ### The two memories -/

/-- `DMEM[a]` (R42): the word last written, or the unspecified stable value of R250. -/
def State.readDmem (s : State) (a : Nat) : Word :=
  (Memory.lookup s.dmem a).getD (Config.dmemPowerOn s.powerCycle a)

/-- `DMEM[a] <- value` (R42). -/
def State.writeDmem (s : State) (a : Nat) (value : Word) : State :=
  { s with dmem := Memory.write s.dmem a value }

/-- `IMEM[a]` (R41): the word last written, or the unspecified stable value of R250. -/
def State.readImem (s : State) (a : Nat) : Word32 :=
  (Memory.lookup s.imem a).getD (Config.imemPowerOn s.powerCycle a)

/-- `IMEM[a] <- value`, by the host alone (R41). -/
def State.writeImem (s : State) (a : Nat) (value : Word32) : State :=
  { s with imem := Memory.write s.imem a value }

/-- The list `[DMEM[a], ..., DMEM[a+n-1]]` (R7, R42), after the caller's bounds check. -/
def State.readRun (s : State) (a n : Nat) : List Word :=
  (List.range n).map fun i => s.readDmem (a + i)

/-- `DMEM[a+i] <- L[i]` for every `i` (R7, R42), after the caller's bounds check. -/
def State.writeRun (s : State) : Nat → List Word → State
  | _, [] => s
  | a, value :: rest => (s.writeDmem a value).writeRun (a + 1) rest

/-! ### Traps -/

/-- What a `raise` carries: the cause and `EINFO` (R7, R220). -/
structure Trap where
  /-- The cause (R220). -/
  cause : Cause
  /-- The value that goes to `EINFO` (R220, fourth column). -/
  info : Word32
  deriving DecidableEq, Repr

/-- The code of a cause in `CAUSE` (R220). -/
def causeCode : Cause → BitVec 5
  | .illegalInstruction => 1
  | .imemBounds => 2
  | .dmemBounds => 3
  | .csrAccess => 4
  | .gfConfig => 5
  | .gfNotReady => 6
  | .operandRange => 7
  | .gfArith => 8
  | .polyEmpty => 9
  | .polyDivZero => 10
  | .vecOverflow => 11
  | .vecIndex => 12
  | .rsParam => 13
  | .rsEuclidZero => 14
  | .rsSigmaZero => 15
  | .rsLocatorMismatch => 16
  | .rsBadLocation => 17

/-- `raise <cause>(info)` with a number as `EINFO` (R7). -/
def raiseTrap {α : Type} (c : Cause) (info : Nat) : Except Trap α :=
  .error { cause := c, info := BitVec.ofNat 32 info }

/-- Trap entry (R225): `CAUSE`, `EPC`, `EINFO`, `STATE`; the pc is not changed and nothing else is
written. The one shared operation of every trap. -/
def State.trap (s : State) (t : Trap) : State :=
  { s with cause := causeCode t.cause, epc := s.pc, einfo := t.info, runState := .faulted }

/-- `CTRL.CLEAR` (R25, R226): the way out of `HALTED` and `FAULTED`; no effect elsewhere. There is no
trap-return instruction (R227). -/
def State.clear (s : State) : State :=
  match s.runState with
  | .halted | .faulted => { s with runState := .idle, cause := 0, epc := 0, einfo := 0 }
  | .idle | .run => s

/-- `CTRL.START` (R25, R226): from `IDLE` the sequencer starts at `ENTRY`; no effect elsewhere. -/
def State.start (s : State) : State :=
  match s.runState with
  | .idle => { s with runState := .run, pc := s.entry }
  | .run | .halted | .faulted => s

/-- Soft reset (R251, R33): the reset state, but IMEM and DMEM keep their contents. The outside
agents' data is not the engine's and stays (log 1). -/
def State.softReset (s : State) : State :=
  { State.reset with
    imem := s.imem, dmem := s.dmem, powerCycle := s.powerCycle
    hostQueue := s.hostQueue, hostReply := s.hostReply }

/-- Hardware reset of a machine that has been running (R250): the reset state; the unspecified
contents of IMEM and DMEM are those of a new reset, unrelated to the old ones (log 3). -/
def State.hardReset (s : State) : State :=
  { State.reset with
    powerCycle := s.powerCycle + 1, hostQueue := s.hostQueue, hostReply := s.hostReply }

/-- The completion line (R229). -/
def State.irq (s : State) : Bool :=
  s.irqEnable && (s.runState == .halted || s.runState == .faulted)

/-! ### How an instruction ends -/

/-- `pc <- (pc + 1) mod 2^16` (R12, R80). -/
def State.advance (s : State) : State := { s with pc := s.pc + 1 }

/-- `pc <- t` (R7, R88). -/
def State.jump (s : State) (target : Word) : State := { s with pc := target }

/-- The end of an instruction whose checks come before its writes (R8): either all of `r`'s writes
and the pc's advance, or the trap with nothing written. -/
def complete (s : State) (r : Except Trap State) : Host.Outcome State Fault Refusal :=
  match r with
  | .ok t => .next t.advance
  | .error e => .next (s.trap e)

/-- The end of an instruction that may trap after it has written (R185): the state it reached, and
the trap that stopped it, if any. -/
def completeFrom (r : State × Option Trap) : Host.Outcome State Fault Refusal :=
  match r.2 with
  | none => .next r.1.advance
  | some e => .next (r.1.trap e)

end Sys2Proof.Machine
end

