-- ==== Sys2Proof/Machine/Flags.lean ====
section
/-! DEFINITION. There are no flags and no condition codes (10_state.md R13): no instruction writes or
reads one. The questions a flag would answer are the three comparisons of the branches
(40_sequencer_control.md R89, R90, R91) and the 0 or 1 that `PISZ` writes (42_gf_poly.md R149). -/

namespace Sys2Proof.Machine

/-- The condition of `BEQ` (R89). -/
def condEq (p q : Word) : Bool := p == q

/-- The condition of `BNE` (R90). -/
def condNe (p q : Word) : Bool := p != q

/-- The condition of `BLTU`: both compared as unsigned 16-bit numbers (R91). -/
def condLtu (p q : Word) : Bool := decide (p.toNat < q.toNat)

/-- The 0 or 1 an instruction writes for a yes-or-no question (R13, R149). -/
def boolWord (b : Bool) : Word := if b then 1 else 0

/-- Where a branch goes: the target, or the next word (R89 to R91). -/
def State.branch (s : State) (taken : Bool) (target : Word) : State :=
  if taken then s.jump target else s.advance

end Sys2Proof.Machine
end

