-- ==== Sys2Proof/Machine/GaloisField.lean ====
section
/-! DEFINITION. The field functions (41_gf_scalar.md R112 to R115) and the table builder (R116 to
R118) as pure functions. -/

namespace Sys2Proof.Machine

/-- The configured field as the arithmetic sees it: `size`, `base` and the two tables (R5, R28). -/
structure GF where
  /-- The number of elements, 2^m. -/
  size : Nat
  /-- The generator base b. -/
  base : Nat
  /-- `EXP[i] = α^i`. -/
  exp : List TableEntry
  /-- `LOG[α^i] = i`. -/
  log : List TableEntry
  deriving DecidableEq, Repr

/-- The field of a state. While `VALID = 1` the three registers hold what `GFINIT` built the tables
from (R19), so `size` and `base` are read from them (log 6). -/
def State.gf (s : State) : GF :=
  { size := s.gfSize.toNat, base := s.gfBase.toNat, exp := s.expTable, log := s.logTable }

/-- `EXP[i]`, zero-extended to a word (R7, R28). -/
def expAt (f : GF) (i : Nat) : Word := ((f.exp[i]?).getD (Config.staleExp i)).setWidth 16

/-- `LOG[a]` as a number (R7, R28). -/
def logAt (f : GF) (a : Word) : Nat := ((f.log[a.toNat]?).getD (Config.staleLog a.toNat)).toNat

/-- R112: addition and subtraction are XOR. -/
def gfAdd (a b : Word) : Word := a ^^^ b

/-- R113. -/
def gfMul (f : GF) (a b : Word) : Word :=
  if a = 0 ∨ b = 0 then 0 else expAt f ((logAt f a + logAt f b) % (f.size - 1))

/-- R114 (90_conflicts.md C1): the index is `size - 1 - LOG[a]`. Callers test `a = 0` first. -/
def gfInv (f : GF) (a : Word) : Word := expAt f (f.size - 1 - logAt f a)

/-- R115: α^k, the exponent reduced modulo `size - 1`. -/
def alphaPow (f : GF) (k : Nat) : Word := expAt f (k % (f.size - 1))

/-! ### Building the tables -/

/-- One step of the loop of R117: double, and reduce modulo the primitive polynomial. -/
def expStep (prim size x : Nat) : Nat :=
  if size ≤ x * 2 then (x * 2 ^^^ prim) &&& (size - 1) else x * 2

/-- `count` values of the loop of R117, from `x` on. -/
def powerList (prim size : Nat) : Nat → Nat → List Nat
  | 0, _ => []
  | count + 1, x => x :: powerList prim size count (expStep prim size x)

/-- The list `T` of R117: `size` entries, from 1 on. -/
def expList (prim size : Nat) : List Nat := powerList prim size size 1

/-- `LOG[T[i]] <- i` for the entries of a part of `T` whose first has index `i` (R118). -/
def logFill : List Nat → Nat → List Nat → List Nat
  | [], _, table => table
  | t :: rest, i, table => logFill rest (i + 1) (table.set t i)

/-- The table of R118 (90_conflicts.md C2): `LOG[0] = 0`, then `i = 0 .. size - 2`. -/
def logList (prim size : Nat) : List Nat :=
  logFill ((expList prim size).take (size - 1)) 0 (List.replicate size 0)

/-- Table entries are 12 bits wide (R28). -/
def toTable (l : List Nat) : List TableEntry := l.map (BitVec.ofNat 12)

/-- The first check of R116: `N = 2^m` with `1 <= m <= M_MAX`. -/
def legalSize (size : Nat) : Bool :=
  (List.range Config.mMax).any fun k => size == 2 ^ (k + 1)

/-- The third check of R116: `T[N-1] = 1` and `T[i] != 1` for `1 <= i <= N-2`. -/
def fullOrder (prim size : Nat) : Bool :=
  (expList prim size).getD (size - 1) 0 == 1 &&
    (((expList prim size).take (size - 1)).drop 1).all fun t => t != 1

/-- The checks of `GFINIT` in the order of R116; the sub-code is `EINFO`. -/
def gfConfigCheck (prim size : Nat) : Except Trap Unit :=
  if legalSize size = false then raiseTrap .gfConfig 1
  else if prim < size ∨ 2 * size ≤ prim then raiseTrap .gfConfig 2
  else if fullOrder prim size = false then raiseTrap .gfConfig 3
  else .ok ()

/-- What a successful `GFINIT` writes (R116): the tables, the cache back to `GEN[0] = [1]`, every
vector register empty, `VALID`. -/
def State.buildField (s : State) : State :=
  { s with
    expTable := toTable (expList s.gfPrim.toNat s.gfSize.toNat)
    logTable := toTable (logList s.gfPrim.toNat s.gfSize.toNat)
    genCache := [[1]]
    genTop := 0
    v := Vector.replicate 8 []
    gfValid := true }

end Sys2Proof.Machine
end

