-- ==== Sys2Proof/Machine/Polynomial.lean ====
section
/-! DEFINITION. The polynomial functions of 42_gf_poly.md (R130 to R138) as pure functions on
coefficient lists, highest degree first. -/

namespace Sys2Proof.Machine

/-- R131: remove leading zeros while more than one entry remains. -/
def norm : Poly → Poly
  | [] => []
  | [c] => [c]
  | c :: d :: rest => if c = 0 then norm (d :: rest) else c :: d :: rest

/-- R132: `deg(p) = len(p) - 1`; the zero polynomial has degree 0. -/
def deg (p : Poly) : Nat := p.length - 1

/-- R132: `lead(p) = p[0]`. -/
def lead (p : Poly) : Word := p.headD 0

/-- R132: the coefficient of x^k, 0 above the degree. -/
def coef (p : Poly) (k : Nat) : Word :=
  if k < p.length then p.getD (p.length - 1 - k) 0 else 0

/-- R133: true exactly when `p[0] = 0`. -/
def isZero (p : Poly) : Bool := p.headD 0 == 0

/-- `zeros(n)` (R6). -/
def zeros (n : Nat) : Poly := List.replicate n 0

/-- A list padded on the left with zeros to at least `n` entries: it aligns the low-degree ends. -/
def padTo (n : Nat) (p : Poly) : Poly := zeros (n - p.length) ++ p

/-- R134: coefficient-wise XOR after aligning the low-degree ends, normalised. -/
def polyAdd (p q : Poly) : Poly :=
  norm (List.zipWith gfAdd (padTo q.length p) (padTo p.length q))

/-- XOR of two lists aligned at the front; the longer one's rest is kept. -/
def xorFront : Poly → Poly → Poly
  | [], q => q
  | p, [] => p
  | a :: p, b :: q => gfAdd a b :: xorFront p q

/-- The double loop of R135: `r[i + j] <- r[i + j] + p[i] * q[j]`, indices from the front. -/
def convolve (f : GF) : Poly → Poly → Poly
  | [], _ => []
  | c :: p, q => xorFront (q.map (gfMul f c)) (0 :: convolve f p q)

/-- R135 without its length test (log 11): `[0]` if a factor is zero, else the convolution, whose
length is `len(p) + len(q) - 1`. -/
def polyMul (f : GF) (p q : Poly) : Poly :=
  if isZero p = true ∨ isZero q = true then [0]
  else convolve f p q

/-- R135 with its length test, which comes after the zero test. -/
def polyMulChecked (f : GF) (p q : Poly) : Except Trap Poly :=
  if isZero p = false ∧ isZero q = false ∧ Config.vmax < p.length + q.length - 1 then
    raiseTrap .vecOverflow (p.length + q.length - 1)
  else .ok (polyMul f p q)

/-- R136 without its length test (log 11). -/
def polyMono (d : Nat) (c : Word) : Poly := if c = 0 then [0] else c :: zeros d

/-- R136 with its length test: coefficient 0 gives `[0]` whatever the degree. -/
def polyMonoChecked (d : Nat) (c : Word) : Except Trap Poly :=
  if c ≠ 0 ∧ Config.vmax < d + 1 then raiseTrap .vecOverflow (d + 1) else .ok (polyMono d c)

/-- The loop of R137, at most `fuel` passes (log 7): quotient and remainder so far. -/
def divLoop (f : GF) (b : Poly) (invLead : Word) : Nat → Poly → Poly → Poly × Poly
  | 0, q, r => (q, r)
  | fuel + 1, q, r =>
    if deg b ≤ deg r ∧ isZero r = false then
      let m := polyMono (deg r - deg b) (gfMul f (lead r) invLead)
      divLoop f b invLead fuel (polyAdd q m) (polyAdd r (polyMul f b m))
    else (q, r)

/-- R137: schoolbook long division. Each pass shortens the remainder, so `len(a)` passes suffice. -/
def polyDivmod (f : GF) (a b : Poly) : Except Trap (Poly × Poly) :=
  if isZero b then raiseTrap .polyDivZero 0
  else .ok (divLoop f b (gfInv f (lead b)) a.length [0] a)

/-- R138: Horner's rule. -/
def polyEval (f : GF) (p : Poly) (a : Word) : Word :=
  p.foldl (fun r c => gfAdd (gfMul f r a) c) 0

end Sys2Proof.Machine
end

