-- ==== Sys2Proof/Machine/Operands.lean ====
section
/-! DEFINITION. The operand forms and the checks the instructions share: field ready (41_gf_scalar.md
R110), symbol range (R111), DMEM bounds (20_memory.md R43), a vector register read as a polynomial
(42_gf_poly.md R139), load and store addresses (40_sequencer_control.md R92, R93), and the control
and status registers (10_state.md R15 to R27). -/

namespace Sys2Proof.Machine

/-- `require_gf()` (R110). -/
def requireGf (s : State) : Except Trap Unit :=
  if s.gfValid = false then raiseTrap .gfNotReady 0 else .ok ()

/-- `require_sym(v)` (R111). -/
def requireSym (s : State) (value : Word) : Except Trap Unit :=
  if s.gfSize.toNat ≤ value.toNat then raiseTrap .operandRange value.toNat else .ok ()

/-- `require_sym` of every entry, from the front: the first offending entry is reported (R111). -/
def requireSyms (s : State) : List Word → Except Trap Unit
  | [] => .ok ()
  | value :: rest => do
    requireSym s value
    requireSyms s rest

/-- `poly(i)` (R139). -/
def readPoly (s : State) (r : VReg) : Except Trap Poly := do
  if (s.readV r).length = 0 then raiseTrap .polyEmpty r.val
  requireSyms s (s.readV r)
  return norm (s.readV r)

/-- The bounds check of a single word (R43). -/
def requireWord (a : Nat) : Except Trap Unit :=
  if Config.dmemWords ≤ a then raiseTrap .dmemBounds a else .ok ()

/-- The bounds check of a run of `n` words from `a`, the sum exact (R43). -/
def requireRun (a n : Nat) : Except Trap Unit :=
  if Config.dmemWords < a + n then raiseTrap .dmemBounds (max a Config.dmemWords) else .ok ()

/-- `VecOverflow` for a result of `n` entries (R173, R174, R186, R192). -/
def requireLength (n : Nat) : Except Trap Unit :=
  if Config.vmax < n then raiseTrap .vecOverflow n else .ok ()

/-- The DMEM address of `LDW` and `STW`: base plus offset modulo 2^16 (R92, R93). -/
def effectiveAddress (s : State) (base : XReg) (offset : Word) : Nat :=
  (s.readX base + offset).toNat

/-- The code of a run state in `STATUS.STATE` (R21). -/
def runStateCode : RunState → BitVec 2
  | .idle => 0
  | .run => 1
  | .halted => 2
  | .faulted => 3

/-- The value of the CSR with number `n`, zero-extended to 32 bits, for the twelve numbers that
exist (R15 to R27); `none` for every other number. `CTRL` reads its `IE` bit alone (R25). -/
def csrValue (s : State) (n : Nat) : Option Word32 :=
  match n with
  | 0x0000 => some (s.gfPrim.setWidth 32)
  | 0x0001 => some (s.gfSize.setWidth 32)
  | 0x0002 => some (s.gfBase.setWidth 32)
  | 0x0003 => some (if s.gfValid then 1 else 0)
  | 0x0004 => some (s.genTop.setWidth 32)
  | 0x0010 => some ((runStateCode s.runState).setWidth 32)
  | 0x0011 => some (s.cause.setWidth 32)
  | 0x0012 => some (s.epc.setWidth 32)
  | 0x0013 => some s.einfo
  | 0x0014 => some (if s.irqEnable then 0x100 else 0)
  | 0x0015 => some (s.entry.setWidth 32)
  | 0x0016 => some (s.pc.setWidth 32)
  | _ => none

/-- What a program reads from CSR `n` (R15, R94): the low 16 bits; `CTRL` and numbers that do not
exist trap. -/
def csrRead (s : State) (n : Nat) : Except Trap Word :=
  if n = 0x0014 then raiseTrap .csrAccess n
  else match csrValue s n with
    | some value => .ok (value.setWidth 16)
    | none => raiseTrap .csrAccess n

/-- A write to one of the three field registers, by the program (R95) or the host (R15): the bits
above the field are dropped, `VALID` is cleared even when the value is the old one (R19). `none`
for every other number. -/
def State.writeFieldCsr (s : State) (n : Nat) (value : Word32) : Option State :=
  match n with
  | 0x0000 => some { s with gfPrim := value.setWidth 13, gfValid := false }
  | 0x0001 => some { s with gfSize := value.setWidth 13, gfValid := false }
  | 0x0002 => some { s with gfBase := value.setWidth 12, gfValid := false }
  | _ => none

end Sys2Proof.Machine
end

