-- ==== Sys2Proof/Machine/Control.lean ====
section
/-! DEFINITION. The meanings of the fifteen sequencer, integer, control-transfer, memory and system
instructions (40_sequencer_control.md R81 to R98). -/

namespace Sys2Proof.Machine

/-- `NOP` (R81). -/
def execNop (s : State) : Host.Outcome State Fault Refusal := complete s (.ok s)

/-- `HALT` (R82): the pc stays at the `HALT`. -/
def execHalt (s : State) : Host.Outcome State Fault Refusal :=
  .next { s with runState := .halted }

/-- `LI` (R83). -/
def execLi (d : XReg) (imm : Word) (s : State) : Host.Outcome State Fault Refusal :=
  complete s (.ok (s.writeX d imm))

/-- `MOV` (R84). -/
def execMov (d a : XReg) (s : State) : Host.Outcome State Fault Refusal :=
  complete s (.ok (s.writeX d (s.readX a)))

/-- `ADD` (R85): modulo 2^16, no overflow indication. -/
def execAdd (d a b : XReg) (s : State) : Host.Outcome State Fault Refusal :=
  complete s (.ok (s.writeX d (s.readX a + s.readX b)))

/-- `SUB` (R86): modulo 2^16, no borrow indication. -/
def execSub (d a b : XReg) (s : State) : Host.Outcome State Fault Refusal :=
  complete s (.ok (s.writeX d (s.readX a - s.readX b)))

/-- `ADDI` (R87). -/
def execAddi (d a : XReg) (imm : Word) (s : State) : Host.Outcome State Fault Refusal :=
  complete s (.ok (s.writeX d (s.readX a + imm)))

/-- `JMP` (R88): nothing checks the target. -/
def execJmp (target : Word) (s : State) : Host.Outcome State Fault Refusal :=
  .next (s.jump target)

/-- `BEQ` (R89). -/
def execBeq (d a : XReg) (target : Word) (s : State) : Host.Outcome State Fault Refusal :=
  .next (s.branch (condEq (s.readX d) (s.readX a)) target)

/-- `BNE` (R90). -/
def execBne (d a : XReg) (target : Word) (s : State) : Host.Outcome State Fault Refusal :=
  .next (s.branch (condNe (s.readX d) (s.readX a)) target)

/-- `BLTU` (R91). -/
def execBltu (d a : XReg) (target : Word) (s : State) : Host.Outcome State Fault Refusal :=
  .next (s.branch (condLtu (s.readX d) (s.readX a)) target)

/-- `LDW` (R92). -/
def execLdw (d a : XReg) (offset : Word) (s : State) : Host.Outcome State Fault Refusal :=
  complete s do
    requireWord (effectiveAddress s a offset)
    return s.writeX d (s.readDmem (effectiveAddress s a offset))

/-- `STW` (R93): `d` is the register stored. -/
def execStw (d a : XReg) (offset : Word) (s : State) : Host.Outcome State Fault Refusal :=
  complete s do
    requireWord (effectiveAddress s a offset)
    return s.writeDmem (effectiveAddress s a offset) (s.readX d)

/-- `CSRR` (R94): `PC` reads the address of the `CSRR` itself. -/
def execCsrr (d : XReg) (csr : Word) (s : State) : Host.Outcome State Fault Refusal :=
  complete s do
    let value ← csrRead s csr.toNat
    return s.writeX d value

/-- `CSRW` (R95): every number but the three field registers traps. -/
def execCsrw (a : XReg) (csr : Word) (s : State) : Host.Outcome State Fault Refusal :=
  complete s
    (match s.writeFieldCsr csr.toNat ((s.readX a).setWidth 32) with
    | some t => .ok t
    | none => raiseTrap .csrAccess csr.toNat)

end Sys2Proof.Machine
end

