-- ==== Sys2Proof/Machine/ReedSolomon.lean ====
section
/-! DEFINITION. The Reed-Solomon functions: generator polynomials, cache and encoding
(43_rs_encoder.md R170 to R172), and the decoder's five steps (44_rs_decoder.md R180 to R185). -/

namespace Sys2Proof.Machine

/-! ### Encoder -/

/-- The factor `(x - α^(k-1+base))` that takes degree `k - 1` to degree `k` (R170). -/
def genFactor (f : GF) (k : Nat) : Poly := [1, alphaPow f (k - 1 + f.base)]

/-- R170: the generator polynomial of degree `d`. -/
def rsGenerator (f : GF) : Nat → Poly
  | 0 => [1]
  | d + 1 => polyMul f (rsGenerator f d) (genFactor f (d + 1))

/-- The entries `GEN[k], GEN[k+1], ...` that the loop of R171 adds, `count` of them, from
`last = GEN[k-1]`. -/
def genExtend (f : GF) : Nat → Nat → Poly → List Poly
  | 0, _, _ => []
  | count + 1, k, last =>
    polyMul f last (genFactor f k) ::
      genExtend f count (k + 1) (polyMul f last (genFactor f k))

/-- `GEN[d]` (R29). The cache never lacks an entry at or below `GEN_TOP`; a list that does reads as
the empty list (log 18). -/
def State.cached (s : State) (d : Nat) : Poly := s.genCache.getD d []

/-- What `gen_fetch(d)` does to the state (R171): the cache grows to degree `d`, `GEN_TOP` rises. -/
def State.warmCache (s : State) (d : Nat) : State :=
  if s.genTop.toNat < d then
    { s with
      genCache := s.genCache ++
        genExtend s.gf (d - s.genTop.toNat) (s.genTop.toNat + 1) (s.cached s.genTop.toNat)
      genTop := BitVec.ofNat 12 d }
  else s

/-- What `gen_fetch(d)` returns (R171): `GEN[d]` after the cache has grown. -/
def State.genFetch (s : State) (d : Nat) : Poly := (s.warmCache d).cached d

/-- R172 with the generator polynomial of degree `ec` given: the check symbols, padded on the left
to `ec` entries. The trap of the division cannot arise: a generator is monic. -/
def rsEncode (f : GF) (generator data : Poly) (ec : Nat) : Except Trap Poly := do
  let (_, rem) ← polyDivmod f (polyMul f (norm data) (polyMono ec 1)) generator
  return zeros (ec - rem.length) ++ rem

/-! ### Decoder -/

/-- R180: `twoS` syndromes, `S_0` first. -/
def rsSyndromes (f : GF) (rec : Poly) (twoS : Nat) : List Word :=
  (List.range twoS).map fun i => polyEval f (norm rec) (alphaPow f (i + f.base))

/-- R181: `S_i` is the coefficient of x^i. -/
def synPoly (syndromes : List Word) : Poly := norm (0 :: syndromes.reverse)

/-- The loop of R182, at most `fuel` passes (log 7): the final `t` and `r`. -/
def euclidLoop (f : GF) (twoS : Nat) :
    Nat → Poly → Poly → Poly → Poly → Except Trap (Poly × Poly)
  | 0, _, r, _, t => .ok (t, r)
  | fuel + 1, rLast, r, tLast, t =>
    if twoS ≤ 2 * deg r then
      if isZero r then raiseTrap .rsEuclidZero 0
      else do
        let (q, rNext) ← polyDivmod f rLast r
        euclidLoop f twoS fuel r rNext t (polyAdd (polyMul f q t) tLast)
    else .ok (t, r)

/-- R182: sigma and omega. The loop runs at most `max(R, deg(syn)) + 2` times. -/
def rsEuclid (f : GF) (syn : Poly) (twoS : Nat) : Except Trap (Poly × Poly) := do
  if Config.vmax < twoS + 1 then raiseTrap .vecOverflow (twoS + 1)
  let (t, r) ← euclidLoop f twoS (max twoS (deg syn) + 3) (polyMono twoS 1) syn [0] [1]
  if coef t 0 = 0 then raiseTrap .rsSigmaZero 0
  return (polyMul f t [gfInv f (coef t 0)], polyMul f r [gfInv f (coef t 0)])

/-- The non-zero elements in ascending order (R183). -/
def nonzeroElements (f : GF) : List Word := (List.range' 1 (f.size - 1)).map (BitVec.ofNat 16)

/-- The search of R183 (90_conflicts.md C4): the inverse of every root, in order of the roots. -/
def chienSearch (f : GF) (sigma : Poly) : List Word :=
  ((nonzeroElements f).filter fun i => polyEval f sigma i == 0).map (gfInv f)

/-- R183: all roots are counted before the comparison with the degree. -/
def rsChien (f : GF) (sigma : Poly) : Except Trap (List Word) :=
  if (chienSearch f sigma).length ≠ deg sigma then
    raiseTrap .rsLocatorMismatch (chienSearch f sigma).length
  else .ok (chienSearch f sigma)

/-- The product of R184 over the locations but the one at index `i`, `j` the index of the first. -/
def forneyDen (f : GF) (i : Nat) (xiInv : Word) : Nat → List Word → Word → Word
  | _, [], den => den
  | j, loc :: rest, den =>
    forneyDen f i xiInv (j + 1) rest
      (if j = i then den else gfMul f den (gfAdd 1 (gfMul f loc xiInv)))

/-- The magnitude of R184 for a location whose denominator is not zero; the extra factor for
`base != 0` is applied once (R191, 90_conflicts.md C6). -/
def forneyMagnitude (f : GF) (omega : Poly) (xiInv den : Word) : Word :=
  if f.base = 0 then gfMul f (polyEval f omega xiInv) (gfInv f den)
  else gfMul f (gfMul f (polyEval f omega xiInv) (gfInv f den)) xiInv

/-- The loop of R184 from index `i` on. -/
def forneyLoop (f : GF) (omega : Poly) (locs : List Word) : Nat → List Word → Except Trap (List Word)
  | _, [] => .ok []
  | i, loc :: rest => do
    if loc = 0 then raiseTrap .gfArith 1
    if forneyDen f i (gfInv f loc) 0 locs 1 = 0 then raiseTrap .gfArith 1
    let mags ← forneyLoop f omega locs (i + 1) rest
    return forneyMagnitude f omega (gfInv f loc) (forneyDen f i (gfInv f loc) 0 locs 1) :: mags

/-- R184: one magnitude per location. -/
def rsForney (f : GF) (omega : Poly) (locs : List Word) : Except Trap (List Word) :=
  forneyLoop f omega locs 0 locs

/-- R185 from index `i` on: each correction is read, changed and written before the next; a bad
location stops there, with the corrections before it written. -/
def State.rsApply (s : State) (a0 n : Nat) : Nat → List Word → List Word → State × Option Trap
  | i, loc :: locs, mag :: mags =>
    if n - 1 < logAt s.gf loc then
      (s, some { cause := .rsBadLocation, info := BitVec.ofNat 32 i })
    else
      let a := a0 + (n - 1 - logAt s.gf loc)
      (s.writeDmem a (s.readDmem a ^^^ mag)).rsApply a0 n (i + 1) locs mags
  | _, _, _ => (s, none)

end Sys2Proof.Machine
end

