-- ==== Sys2Proof/Machine/Encoder.lean ====
section
/-! DEFINITION. The meanings of the encoder instructions (43_rs_encoder.md R173 to R175). -/

namespace Sys2Proof.Machine

/-- `RSGEN` (R173): it warms the cache and writes nothing else. -/
def execRsgen (a : XReg) (s : State) : Host.Outcome State Fault Refusal :=
  complete s do
    requireGf s
    requireLength ((s.readX a).toNat + 1)
    return s.warmCache (s.readX a).toNat

/-- `PGEN` (R174). -/
def execPgen (d : VReg) (a : XReg) (s : State) : Host.Outcome State Fault Refusal :=
  complete s do
    requireGf s
    requireLength ((s.readX a).toNat + 1)
    return (s.warmCache (s.readX a).toNat).writeV d (s.genFetch (s.readX a).toNat)

/-- `RSENC` (R175): every check comes before `gen_fetch` (R171); the check symbols go to DMEM
directly after the data. -/
def execRsenc (a b c : XReg) (s : State) : Host.Outcome State Fault Refusal :=
  complete s do
    let a0 := (s.readX a).toNat
    let n := (s.readX b).toNat
    let ec := (s.readX c).toNat
    requireGf s
    if ec = 0 then raiseTrap .rsParam 1
    if n = 0 then raiseTrap .rsParam 2
    requireRun a0 (n + ec)
    requireSyms s (s.readRun a0 n)
    let check ← rsEncode s.gf (s.genFetch ec) (s.readRun a0 n) ec
    return (s.warmCache ec).writeRun (a0 + n) check

end Sys2Proof.Machine
end

