-- ==== Sys2Proof/Machine/FieldScalar.lean ====
section
/-! DEFINITION. The meanings of the field scalar instructions (41_gf_scalar.md R116, R119 to R123). -/

namespace Sys2Proof.Machine

/-- `GFINIT` (R116): the checks, then the tables, the cache, the vectors and `VALID`. -/
def execGfinit (s : State) : Host.Outcome State Fault Refusal :=
  complete s do
    gfConfigCheck s.gfPrim.toNat s.gfSize.toNat
    return s.buildField

/-- `GFADD` (R119). -/
def execGfadd (d a b : XReg) (s : State) : Host.Outcome State Fault Refusal :=
  complete s do
    requireGf s
    requireSym s (s.readX a)
    requireSym s (s.readX b)
    return s.writeX d (gfAdd (s.readX a) (s.readX b))

/-- `GFMUL` (R120): the range checks come before the zero shortcut. -/
def execGfmul (d a b : XReg) (s : State) : Host.Outcome State Fault Refusal :=
  complete s do
    requireGf s
    requireSym s (s.readX a)
    requireSym s (s.readX b)
    return s.writeX d (gfMul s.gf (s.readX a) (s.readX b))

/-- `GFINV` (R121). -/
def execGfinv (d a : XReg) (s : State) : Host.Outcome State Fault Refusal :=
  complete s do
    requireGf s
    requireSym s (s.readX a)
    if s.readX a = 0 then raiseTrap .gfArith 1
    return s.writeX d (gfInv s.gf (s.readX a))

/-- `GFEXP` (R122): the index is not reduced. -/
def execGfexp (d a : XReg) (s : State) : Host.Outcome State Fault Refusal :=
  complete s do
    requireGf s
    requireSym s (s.readX a)
    return s.writeX d (expAt s.gf (s.readX a).toNat)

/-- `GFLOG` (R123). -/
def execGflog (d a : XReg) (s : State) : Host.Outcome State Fault Refusal :=
  complete s do
    requireGf s
    requireSym s (s.readX a)
    if s.readX a = 0 then raiseTrap .gfArith 2
    return s.writeX d (BitVec.ofNat 16 (logAt s.gf (s.readX a)))

end Sys2Proof.Machine
end

