-- ==== Sys2Proof/Machine/RsDecoder.lean ====
section
/-! DEFINITION. The meanings of the decoder instructions (44_rs_decoder.md R186 to R190, R192). -/

namespace Sys2Proof.Machine

/-- The checks `RSSYN` and `RSDEC` share, in the order of R186 and R192. -/
def requireBlock (s : State) (a0 n twoS : Nat) : Except Trap Unit := do
  requireGf s
  if n = 0 then raiseTrap .rsParam 2
  requireRun a0 n
  requireSyms s (s.readRun a0 n)
  requireLength (twoS + 1)

/-- `RSSYN` (R186), step 1. -/
def execRssyn (d : VReg) (a b c : XReg) (s : State) : Host.Outcome State Fault Refusal :=
  complete s do
    requireBlock s (s.readX a).toNat (s.readX b).toNat (s.readX c).toNat
    return s.writeV d
      (synPoly (rsSyndromes s.gf (s.readRun (s.readX a).toNat (s.readX b).toNat) (s.readX c).toNat))

/-- `RSEUC` (R187), step 2: sigma to `d`, omega to `a`. -/
def execRseuc (d a b : VReg) (c : XReg) (s : State) : Host.Outcome State Fault Refusal :=
  complete s do
    requireGf s
    let syn ← readPoly s b
    let (sigma, omega) ← rsEuclid s.gf syn (s.readX c).toNat
    return (s.writeV d sigma).writeV a omega

/-- `RSCHIEN` (R188), step 3: the result is a raw list. -/
def execRschien (d a : VReg) (s : State) : Host.Outcome State Fault Refusal :=
  complete s do
    requireGf s
    let sigma ← readPoly s a
    let locs ← rsChien s.gf sigma
    return s.writeV d locs

/-- `RSFORN` (R189), step 4: the locations are read raw, not through `poly`. -/
def execRsforn (d a b : VReg) (s : State) : Host.Outcome State Fault Refusal :=
  complete s do
    requireGf s
    let omega ← readPoly s a
    requireSyms s (s.readV b)
    let mags ← rsForney s.gf omega (s.readV b)
    return s.writeV d mags

/-- The zero test of R190 for every location. -/
def requireNonzero : List Word → Except Trap Unit
  | [] => .ok ()
  | loc :: rest => do
    if loc = 0 then raiseTrap .gfArith 2
    requireNonzero rest

/-- The checks of `RSCORR` in the order of R190, all before the first write. -/
def requireCorrections (s : State) (locs mags : List Word) (a0 n : Nat) : Except Trap Unit := do
  requireGf s
  if locs.length ≠ mags.length then raiseTrap .rsParam 3
  if n = 0 then raiseTrap .rsParam 2
  requireRun a0 n
  requireSyms s locs
  requireSyms s mags
  requireNonzero locs

/-- `RSCORR` (R190), step 5: `d` holds the locations, `a` the magnitudes. -/
def execRscorr (d a : VReg) (b c : XReg) (s : State) : Host.Outcome State Fault Refusal :=
  match requireCorrections s (s.readV d) (s.readV a) (s.readX b).toNat (s.readX c).toNat with
  | .error e => .next (s.trap e)
  | .ok () =>
    completeFrom
      (s.rsApply (s.readX b).toNat (s.readX c).toNat 0 (s.readV d) (s.readV a))

/-- Steps 2 to 4 of R192 for syndromes that are not all zero: locations and magnitudes. -/
def rsLocate (f : GF) (syndromes : List Word) (twoS : Nat) : Except Trap (List Word × List Word) := do
  let (sigma, omega) ← rsEuclid f (synPoly syndromes) twoS
  let locs ← rsChien f sigma
  let mags ← rsForney f omega locs
  return (locs, mags)

/-- What `RSDEC` decides before it writes anything (R192): the checks, step 1, and either nothing to
correct (the fast path) or the locations and magnitudes of steps 2 to 4. -/
def rsdecPlan (s : State) (a0 n twoS : Nat) : Except Trap (List Word × List Word) := do
  requireBlock s a0 n twoS
  let syndromes := rsSyndromes s.gf (s.readRun a0 n) twoS
  if syndromes.all (· == 0) then return ([], [])
  else rsLocate s.gf syndromes twoS

/-- The end of `RSDEC`: the count is written only when every correction was made (R192). -/
def withCount (d : XReg) (count : Nat) (r : State × Option Trap) : State × Option Trap :=
  match r.2 with
  | none => (r.1.writeX d (BitVec.ofNat 16 count), none)
  | some e => (r.1, some e)

/-- `RSDEC` (R192): no vector register is read or written. -/
def execRsdec (d a b c : XReg) (s : State) : Host.Outcome State Fault Refusal :=
  match rsdecPlan s (s.readX a).toNat (s.readX b).toNat (s.readX c).toNat with
  | .error e => .next (s.trap e)
  | .ok (locs, mags) =>
    completeFrom
      (withCount d locs.length
        (s.rsApply (s.readX a).toNat (s.readX b).toNat 0 locs mags))

end Sys2Proof.Machine
end

