-- ==== Sys2Proof/Machine/VectorPoly.lean ====
section
/-! DEFINITION. The meanings of the vector and polynomial instructions (42_gf_poly.md R140 to R155). -/

namespace Sys2Proof.Machine

/-- `VLD` (R140): a raw copy. -/
def execVld (d : VReg) (a b : XReg) (s : State) : Host.Outcome State Fault Refusal :=
  complete s do
    requireRun (s.readX a).toNat (s.readX b).toNat
    return s.writeV d (s.readRun (s.readX a).toNat (s.readX b).toNat)

/-- `VST` (R141): `d` is the vector stored. -/
def execVst (d : VReg) (a : XReg) (s : State) : Host.Outcome State Fault Refusal :=
  complete s do
    requireRun (s.readX a).toNat (s.readV d).length
    return s.writeRun (s.readX a).toNat (s.readV d)

/-- `VLEN` (R142): the raw length. -/
def execVlen (d : XReg) (a : VReg) (s : State) : Host.Outcome State Fault Refusal :=
  complete s (.ok (s.writeX d (BitVec.ofNat 16 (s.readV a).length)))

/-- `VGET` (R143): the index counts from the front. -/
def execVget (d : XReg) (a : VReg) (b : XReg) (s : State) : Host.Outcome State Fault Refusal :=
  complete s
    (if (s.readV a).length ≤ (s.readX b).toNat then raiseTrap .vecIndex (s.readX b).toNat
    else .ok (s.writeX d ((s.readV a).getD (s.readX b).toNat 0)))

/-- `VMOV` (R144). -/
def execVmov (d a : VReg) (s : State) : Host.Outcome State Fault Refusal :=
  complete s (.ok (s.writeV d (s.readV a)))

/-- `PNORM` (R145). -/
def execPnorm (d a : VReg) (s : State) : Host.Outcome State Fault Refusal :=
  complete s do
    requireGf s
    let p ← readPoly s a
    return s.writeV d p

/-- `PMONO` (R146): `a` holds the degree, `b` the coefficient. -/
def execPmono (d : VReg) (a b : XReg) (s : State) : Host.Outcome State Fault Refusal :=
  complete s do
    requireGf s
    requireSym s (s.readX b)
    let p ← polyMonoChecked (s.readX a).toNat (s.readX b)
    return s.writeV d p

/-- `PDEG` (R147). -/
def execPdeg (d : XReg) (a : VReg) (s : State) : Host.Outcome State Fault Refusal :=
  complete s do
    requireGf s
    let p ← readPoly s a
    return s.writeX d (BitVec.ofNat 16 (deg p))

/-- `PCOEF` (R148): a degree above `deg` gives 0. -/
def execPcoef (d : XReg) (a : VReg) (b : XReg) (s : State) : Host.Outcome State Fault Refusal :=
  complete s do
    requireGf s
    let p ← readPoly s a
    return s.writeX d (coef p (s.readX b).toNat)

/-- `PISZ` (R149). -/
def execPisz (d : XReg) (a : VReg) (s : State) : Host.Outcome State Fault Refusal :=
  complete s do
    requireGf s
    let p ← readPoly s a
    return s.writeX d (boolWord (isZero p))

/-- `PADD` (R150). -/
def execPadd (d a b : VReg) (s : State) : Host.Outcome State Fault Refusal :=
  complete s do
    requireGf s
    let p ← readPoly s a
    let q ← readPoly s b
    return s.writeV d (polyAdd p q)

/-- `PMUL` (R151). -/
def execPmul (d a b : VReg) (s : State) : Host.Outcome State Fault Refusal :=
  complete s do
    requireGf s
    let p ← readPoly s a
    let q ← readPoly s b
    let r ← polyMulChecked s.gf p q
    return s.writeV d r

/-- `PSCALE` (R152): "Never overflows", so the product has no length test (log 11). -/
def execPscale (d a : VReg) (b : XReg) (s : State) : Host.Outcome State Fault Refusal :=
  complete s do
    requireGf s
    let p ← readPoly s a
    requireSym s (s.readX b)
    return s.writeV d (polyMul s.gf p (polyMono 0 (s.readX b)))

/-- The value `PMULM` writes (R153): the zero tests come before the length test. -/
def monomialProduct (s : State) (p : Poly) (k : Nat) (c : Word) : Except Trap Poly :=
  if c = 0 ∨ isZero p = true then .ok [0]
  else if Config.vmax < p.length + k then raiseTrap .vecOverflow (p.length + k)
  else .ok (p.map (fun e => gfMul s.gf e c) ++ zeros k)

/-- `PMULM` (R153): `b` holds the degree, `c` the coefficient. -/
def execPmulm (d a : VReg) (b c : XReg) (s : State) : Host.Outcome State Fault Refusal :=
  complete s do
    requireGf s
    let p ← readPoly s a
    requireSym s (s.readX c)
    let r ← monomialProduct s p (s.readX b).toNat (s.readX c)
    return s.writeV d r

/-- `PDIV` (R154): quotient to `d`, remainder to `a`, both sources read first (R256). -/
def execPdiv (d a b c : VReg) (s : State) : Host.Outcome State Fault Refusal :=
  complete s do
    requireGf s
    let p ← readPoly s b
    let q ← readPoly s c
    let (quo, rem) ← polyDivmod s.gf p q
    return (s.writeV d quo).writeV a rem

/-- `PEVAL` (R155). -/
def execPeval (d : XReg) (a : VReg) (b : XReg) (s : State) : Host.Outcome State Fault Refusal :=
  complete s do
    requireGf s
    let p ← readPoly s a
    requireSym s (s.readX b)
    return s.writeX d (polyEval s.gf p (s.readX b))

end Sys2Proof.Machine
end

