-- ==== Sys2Proof/Machine/Dispatch.lean ====
section
/-! DEFINITION. One arm per instruction: a direct call of its meaning. -/

namespace Sys2Proof.Machine

/-- The effect of one decoded instruction (40_sequencer_control.md R80). -/
def exec (i : Instr) (s : State) : Host.Outcome State Fault Refusal :=
  match i with
  | .nop => Sys2Proof.Machine.execNop s
  | .halt => Sys2Proof.Machine.execHalt s
  | .li d imm => Sys2Proof.Machine.execLi d imm s
  | .mov d a => Sys2Proof.Machine.execMov d a s
  | .add d a b => Sys2Proof.Machine.execAdd d a b s
  | .sub d a b => Sys2Proof.Machine.execSub d a b s
  | .addi d a imm => Sys2Proof.Machine.execAddi d a imm s
  | .jmp target => Sys2Proof.Machine.execJmp target s
  | .beq d a target => Sys2Proof.Machine.execBeq d a target s
  | .bne d a target => Sys2Proof.Machine.execBne d a target s
  | .bltu d a target => Sys2Proof.Machine.execBltu d a target s
  | .ldw d a offset => Sys2Proof.Machine.execLdw d a offset s
  | .stw d a offset => Sys2Proof.Machine.execStw d a offset s
  | .csrr d csr => Sys2Proof.Machine.execCsrr d csr s
  | .csrw a csr => Sys2Proof.Machine.execCsrw a csr s
  | .gfinit => Sys2Proof.Machine.execGfinit s
  | .gfadd d a b => Sys2Proof.Machine.execGfadd d a b s
  | .gfmul d a b => Sys2Proof.Machine.execGfmul d a b s
  | .gfinv d a => Sys2Proof.Machine.execGfinv d a s
  | .gfexp d a => Sys2Proof.Machine.execGfexp d a s
  | .gflog d a => Sys2Proof.Machine.execGflog d a s
  | .vld d a b => Sys2Proof.Machine.execVld d a b s
  | .vst d a => Sys2Proof.Machine.execVst d a s
  | .vlen d a => Sys2Proof.Machine.execVlen d a s
  | .vget d a b => Sys2Proof.Machine.execVget d a b s
  | .vmov d a => Sys2Proof.Machine.execVmov d a s
  | .pnorm d a => Sys2Proof.Machine.execPnorm d a s
  | .pmono d a b => Sys2Proof.Machine.execPmono d a b s
  | .pdeg d a => Sys2Proof.Machine.execPdeg d a s
  | .pcoef d a b => Sys2Proof.Machine.execPcoef d a b s
  | .pisz d a => Sys2Proof.Machine.execPisz d a s
  | .padd d a b => Sys2Proof.Machine.execPadd d a b s
  | .pmul d a b => Sys2Proof.Machine.execPmul d a b s
  | .pscale d a b => Sys2Proof.Machine.execPscale d a b s
  | .pmulm d a b c => Sys2Proof.Machine.execPmulm d a b c s
  | .pdiv d a b c => Sys2Proof.Machine.execPdiv d a b c s
  | .peval d a b => Sys2Proof.Machine.execPeval d a b s
  | .rsgen a => Sys2Proof.Machine.execRsgen a s
  | .pgen d a => Sys2Proof.Machine.execPgen d a s
  | .rsenc a b c => Sys2Proof.Machine.execRsenc a b c s
  | .rssyn d a b c => Sys2Proof.Machine.execRssyn d a b c s
  | .rseuc d a b c => Sys2Proof.Machine.execRseuc d a b c s
  | .rschien d a => Sys2Proof.Machine.execRschien d a s
  | .rsforn d a b => Sys2Proof.Machine.execRsforn d a b s
  | .rscorr d a b c => Sys2Proof.Machine.execRscorr d a b c s
  | .rsdec d a b c => Sys2Proof.Machine.execRsdec d a b c s

end Sys2Proof.Machine
end

