-- ==== Sys2Proof/Machine/HostPort.lean ====
section
/-! DEFINITION. The host port (20_memory.md R47 to R49) and the host's control of the run
(10_state.md R25, 60_exceptions.md R226): transactions as pure functions of the state. -/

namespace Sys2Proof.Machine

/-- Is the sequencer running (R21)? -/
def State.running (s : State) : Bool := s.runState == .run

/-- A read through a table window (R47): refused unless `VALID = 1` and the index is below `size`. -/
def windowRead (s : State) (index : Nat) (entry : TableEntry) : Option Word32 :=
  if s.gfValid = true ∧ index < s.gfSize.toNat then some (entry.setWidth 32) else none

/-- The scalar register at host address `h`, for `0x4000 <= h <= 0x400F` (R47). -/
def hostRegister (h : Nat) : XReg := ⟨(h - 0x4000) % 16, Nat.mod_lt _ (by decide)⟩

/-- The host map of R47 for reads, with the sequencer stopped (R48). `none` is *refused*. -/
def readMap (s : State) (h : Nat) : Option Word32 :=
  if h < 0x1000 then some ((s.readDmem h).setWidth 32)
  else if h < 0x1400 then some (s.readImem (h - 0x1000))
  else if h < 0x2000 then none
  else if h < 0x3000 then
    windowRead s (h - 0x2000) ((s.expTable[h - 0x2000]?).getD (Config.staleExp (h - 0x2000)))
  else if h < 0x4000 then
    windowRead s (h - 0x3000) ((s.logTable[h - 0x3000]?).getD (Config.staleLog (h - 0x3000)))
  else if h < 0x4010 then some ((s.readX (hostRegister h)).setWidth 32)
  else if h < 0x8000 then none
  else csrValue s (h - 0x8000)

/-- `HostRead(h)` (R47 to R49): while the sequencer runs only `STATUS` can be read. -/
def State.hostRead (s : State) (h : Word) : Option Word32 :=
  if s.running then
    if h.toNat = 0x8010 then csrValue s 0x0010 else none
  else readMap s h.toNat

/-- A host write to `CTRL` without `SRESET` (R25): `IE` is stored, then `CLEAR` acts, then `START`. -/
def State.writeCtrl (s : State) (d : Word32) : State :=
  let s1 := { s with irqEnable := d.getLsbD 8 }
  let s2 := if d.getLsbD 1 then s1.clear else s1
  if d.getLsbD 0 then s2.start else s2

/-- A host write to the CSR with number `n`, the sequencer stopped (R15 to R27): read-only registers
and numbers that do not exist refuse. -/
def State.hostWriteCsr (s : State) (n : Nat) (d : Word32) : Option State :=
  match n with
  | 0x0014 => some (s.writeCtrl d)
  | 0x0015 => some { s with entry := d.setWidth 16 }
  | _ => s.writeFieldCsr n d

/-- The host map of R47 for writes, with the sequencer stopped (R48). `none` is *refused*. -/
def State.writeMap (s : State) (h : Nat) (d : Word32) : Option State :=
  if h < 0x1000 then some (s.writeDmem h (d.setWidth 16))
  else if h < 0x1400 then some (s.writeImem (h - 0x1000) d)
  else if h < 0x4000 then none
  else if h < 0x4010 then some (s.writeX (hostRegister h) (d.setWidth 16))
  else if h < 0x8000 then none
  else s.hostWriteCsr (h - 0x8000) d

/-- `HostWrite(h, d)` (R25, R47 to R49): `SRESET` is honoured in every state and alone; while the
sequencer runs every other write is refused. -/
def State.hostWrite (s : State) (h : Word) (d : Word32) : Option State :=
  if h.toNat = 0x8014 ∧ d.getLsbD 2 = true then some s.softReset
  else if s.running then none
  else s.writeMap h.toNat d

/-- A host transaction or a hardware reset as one atomic step (R47, R48, R250): the engine's state
and the reply. `pass` is no transaction. -/
def State.hostEvent (s : State) : HostEvent → State
  | .pass => s
  | .read h =>
    { s with hostReply := match s.hostRead h with
        | some value => .data value
        | none => .refused }
  | .write h d =>
    match s.hostWrite h d with
    | some t => { t with hostReply := .done }
    | none => { s with hostReply := .refused }
  | .hardReset => s.hardReset

end Sys2Proof.Machine
end

