-- ==== Sys2Proof/Machine/Sequencer.lean ====
section
/-! DEFINITION. Fetch and the sequencer's step (40_sequencer_control.md R80), the turn-taking of the
agents (10_state.md R10, 20_memory.md R51), and what placing one instruction for the next step
takes (log 9). -/

namespace Sys2Proof.Machine

/-- Fetch and decode at the pc (R80): `ImemBounds` before `IllegalInstruction` (R224). -/
def State.fetch (s : State) : Except Trap Instr :=
  if Config.imemWords ≤ s.pc.toNat then raiseTrap .imemBounds s.pc.toNat
  else match decode (s.readImem s.pc.toNat) with
    | .ok i => .ok i
    | .error _ => .error { cause := .illegalInstruction, info := s.readImem s.pc.toNat }

/-- One step of the sequencer (R80): it steps only while `STATE = RUN`; otherwise nothing changes
(R236; log 10). -/
def State.sequencerStep (s : State) : Host.Outcome State Fault Refusal :=
  match s.runState with
  | .run =>
    match s.fetch with
    | .ok i => exec i s
    | .error e => .next (s.trap e)
  | .idle | .halted | .faulted => .next s

/-- One step of the machine (R10, R51): the next event of the outside agents if one is queued, else
a step of the sequencer. `pass` gives the sequencer the step (log 1). -/
def State.agentStep (s : State) : Host.Outcome State Fault Refusal :=
  match s.hostQueue with
  | [] => s.sequencerStep
  | .pass :: rest => State.sequencerStep { s with hostQueue := rest }
  | e :: rest => .next (State.hostEvent { s with hostQueue := rest } e)

/-- The word `w` of an opcode-table row of `nbits` bits placed where the next fetch reads it, and
what the fetch needs besides: the sequencer running, no host event before it, and a pc inside IMEM
(log 9). -/
def State.placeWord (s : State) (nbits w : Nat) : State :=
  let pc : Word := if s.pc.toNat < Config.imemWords then s.pc else 0
  { s with
    runState := .run
    hostQueue := []
    pc := pc
    imem := Memory.write s.imem pc.toNat (BitVec.ofNat 32 (w % 2 ^ nbits)) }

end Sys2Proof.Machine
end

