-- ==== Sys2Proof/Machine/Step.lean ====
section
/-! DEFINITION. The step of the machine. -/

namespace Sys2Proof.Machine

/-- One step (40_sequencer_control.md R80, 20_memory.md R51). -/
def step (s : State) : Host.Outcome State Fault Refusal := s.agentStep

/-- `s` with the word `w` stored where the very next step fetches it (log 9). -/
def State.withFetchWord (s : State) (nbits w : Nat) : State := s.placeWord nbits w

end Sys2Proof.Machine
end

