-- ==== Sys2Proof/Machine/Assembly.lean ====
section
/-! DEFINITION. The assembler's view of an instruction (30_encoding.md R69, R70): mnemonic and
operands in the written order, one mnemonic per row of R65 and no pseudo-instruction. The lexical
layer (labels, comments, spellings of a number) is text, not machine (log 15). -/

namespace Sys2Proof.Machine

/-- An operand as R69 writes it. -/
inductive Operand where
  /-- `x0`..`x15`. -/
  | x (r : XReg)
  /-- `v0`..`v7`. -/
  | v (r : VReg)
  /-- An immediate: a number, a label or a CSR name. -/
  | imm (value : Word)
  /-- `off(xbase)` of `LDW` and `STW`. -/
  | mem (offset : Word) (base : XReg)
  deriving DecidableEq, Repr

/-- A written immediate: `-k` stands for `2^16 - k` (R69). -/
def immediate (k : Int) : Word := BitVec.ofInt 16 k

/-- The number of a CSR name (R15, R69). -/
def csrNumber (name : String) : Option Word :=
  match name with
  | "GF_PRIM" => some 0x0000
  | "GF_SIZE" => some 0x0001
  | "GF_BASE" => some 0x0002
  | "GF_STATUS" => some 0x0003
  | "GEN_TOP" => some 0x0004
  | "STATUS" => some 0x0010
  | "CAUSE" => some 0x0011
  | "EPC" => some 0x0012
  | "EINFO" => some 0x0013
  | "CTRL" => some 0x0014
  | "ENTRY" => some 0x0015
  | "PC" => some 0x0016
  | _ => none

/-- Mnemonic and operands of an instruction, in the order of R69. -/
def disassemble : Instr → String × List Operand
  | .nop => ("NOP", [])
  | .halt => ("HALT", [])
  | .li d imm => ("LI", [.x d, .imm imm])
  | .mov d a => ("MOV", [.x d, .x a])
  | .add d a b => ("ADD", [.x d, .x a, .x b])
  | .sub d a b => ("SUB", [.x d, .x a, .x b])
  | .addi d a imm => ("ADDI", [.x d, .x a, .imm imm])
  | .jmp t => ("JMP", [.imm t])
  | .beq d a t => ("BEQ", [.x d, .x a, .imm t])
  | .bne d a t => ("BNE", [.x d, .x a, .imm t])
  | .bltu d a t => ("BLTU", [.x d, .x a, .imm t])
  | .ldw d a o => ("LDW", [.x d, .mem o a])
  | .stw d a o => ("STW", [.x d, .mem o a])
  | .csrr d c => ("CSRR", [.x d, .imm c])
  | .csrw a c => ("CSRW", [.imm c, .x a])
  | .gfinit => ("GFINIT", [])
  | .gfadd d a b => ("GFADD", [.x d, .x a, .x b])
  | .gfmul d a b => ("GFMUL", [.x d, .x a, .x b])
  | .gfinv d a => ("GFINV", [.x d, .x a])
  | .gfexp d a => ("GFEXP", [.x d, .x a])
  | .gflog d a => ("GFLOG", [.x d, .x a])
  | .vld d a b => ("VLD", [.v d, .x a, .x b])
  | .vst d a => ("VST", [.v d, .x a])
  | .vlen d a => ("VLEN", [.x d, .v a])
  | .vget d a b => ("VGET", [.x d, .v a, .x b])
  | .vmov d a => ("VMOV", [.v d, .v a])
  | .pnorm d a => ("PNORM", [.v d, .v a])
  | .pmono d a b => ("PMONO", [.v d, .x a, .x b])
  | .pdeg d a => ("PDEG", [.x d, .v a])
  | .pcoef d a b => ("PCOEF", [.x d, .v a, .x b])
  | .pisz d a => ("PISZ", [.x d, .v a])
  | .padd d a b => ("PADD", [.v d, .v a, .v b])
  | .pmul d a b => ("PMUL", [.v d, .v a, .v b])
  | .pscale d a b => ("PSCALE", [.v d, .v a, .x b])
  | .pmulm d a b c => ("PMULM", [.v d, .v a, .x b, .x c])
  | .pdiv d a b c => ("PDIV", [.v d, .v a, .v b, .v c])
  | .peval d a b => ("PEVAL", [.x d, .v a, .x b])
  | .rsgen a => ("RSGEN", [.x a])
  | .pgen d a => ("PGEN", [.v d, .x a])
  | .rsenc a b c => ("RSENC", [.x a, .x b, .x c])
  | .rssyn d a b c => ("RSSYN", [.v d, .x a, .x b, .x c])
  | .rseuc d a b c => ("RSEUC", [.v d, .v a, .v b, .x c])
  | .rschien d a => ("RSCHIEN", [.v d, .v a])
  | .rsforn d a b => ("RSFORN", [.v d, .v a, .v b])
  | .rscorr d a b c => ("RSCORR", [.v d, .v a, .x b, .x c])
  | .rsdec d a b c => ("RSDEC", [.x d, .x a, .x b, .x c])

/-- The instruction a written line stands for (R69, R70); `none` where the operands do not fit. The
mnemonic is in upper case. -/
def assemble (mnemonic : String) (operands : List Operand) : Option Instr :=
  match mnemonic, operands with
  | "NOP", [] => some .nop
  | "HALT", [] => some .halt
  | "LI", [.x d, .imm imm] => some (.li d imm)
  | "MOV", [.x d, .x a] => some (.mov d a)
  | "ADD", [.x d, .x a, .x b] => some (.add d a b)
  | "SUB", [.x d, .x a, .x b] => some (.sub d a b)
  | "ADDI", [.x d, .x a, .imm imm] => some (.addi d a imm)
  | "JMP", [.imm t] => some (.jmp t)
  | "BEQ", [.x d, .x a, .imm t] => some (.beq d a t)
  | "BNE", [.x d, .x a, .imm t] => some (.bne d a t)
  | "BLTU", [.x d, .x a, .imm t] => some (.bltu d a t)
  | "LDW", [.x d, .mem o a] => some (.ldw d a o)
  | "STW", [.x d, .mem o a] => some (.stw d a o)
  | "CSRR", [.x d, .imm c] => some (.csrr d c)
  | "CSRW", [.imm c, .x a] => some (.csrw a c)
  | "GFINIT", [] => some .gfinit
  | "GFADD", [.x d, .x a, .x b] => some (.gfadd d a b)
  | "GFMUL", [.x d, .x a, .x b] => some (.gfmul d a b)
  | "GFINV", [.x d, .x a] => some (.gfinv d a)
  | "GFEXP", [.x d, .x a] => some (.gfexp d a)
  | "GFLOG", [.x d, .x a] => some (.gflog d a)
  | "VLD", [.v d, .x a, .x b] => some (.vld d a b)
  | "VST", [.v d, .x a] => some (.vst d a)
  | "VLEN", [.x d, .v a] => some (.vlen d a)
  | "VGET", [.x d, .v a, .x b] => some (.vget d a b)
  | "VMOV", [.v d, .v a] => some (.vmov d a)
  | "PNORM", [.v d, .v a] => some (.pnorm d a)
  | "PMONO", [.v d, .x a, .x b] => some (.pmono d a b)
  | "PDEG", [.x d, .v a] => some (.pdeg d a)
  | "PCOEF", [.x d, .v a, .x b] => some (.pcoef d a b)
  | "PISZ", [.x d, .v a] => some (.pisz d a)
  | "PADD", [.v d, .v a, .v b] => some (.padd d a b)
  | "PMUL", [.v d, .v a, .v b] => some (.pmul d a b)
  | "PSCALE", [.v d, .v a, .x b] => some (.pscale d a b)
  | "PMULM", [.v d, .v a, .x b, .x c] => some (.pmulm d a b c)
  | "PDIV", [.v d, .v a, .v b, .v c] => some (.pdiv d a b c)
  | "PEVAL", [.x d, .v a, .x b] => some (.peval d a b)
  | "RSGEN", [.x a] => some (.rsgen a)
  | "PGEN", [.v d, .x a] => some (.pgen d a)
  | "RSENC", [.x a, .x b, .x c] => some (.rsenc a b c)
  | "RSSYN", [.v d, .x a, .x b, .x c] => some (.rssyn d a b c)
  | "RSEUC", [.v d, .v a, .v b, .x c] => some (.rseuc d a b c)
  | "RSCHIEN", [.v d, .v a] => some (.rschien d a)
  | "RSFORN", [.v d, .v a, .v b] => some (.rsforn d a b)
  | "RSCORR", [.v d, .v a, .x b, .x c] => some (.rscorr d a b c)
  | "RSDEC", [.x d, .x a, .x b, .x c] => some (.rsdec d a b c)
  | _, _ => none

end Sys2Proof.Machine
end

