-- ==== Sys2Proof/Machine/MinimalEncoding.lean ====
section
/-! DEFINITION. The minimal high-level encoder of 48_minimal_encoding_reference.md (R200 to R210): a
reference algorithm over an abstract cost model. No instruction runs it and no state of the machine
belongs to it (00_scope.md section 3). What the spec fixes of it is defined here; everything R212
leaves open is a field of `CostModel` (log 14). -/

namespace Sys2Proof.Machine

/-! ### The input (R200) -/

/-- The shape hint of the configuration (R200, R209). -/
inductive ShapeHint where
  /-- Square symbols only. -/
  | square
  /-- Rectangular symbols only. -/
  | rectangular
  /-- Symbols of either shape. -/
  | any
  deriving DecidableEq, Repr

/-- The configuration record (R200). -/
structure EncoderConfig where
  /-- The FNC1 character, if any. -/
  fnc1 : Option Nat
  /-- Which symbol shapes may be chosen. -/
  shape : ShapeHint
  /-- The macro id, if any. -/
  macroId : Option Nat
  deriving DecidableEq, Repr

/-- A character of the input and the ECI block it belongs to (R200). -/
structure InputCharacter where
  /-- The character. -/
  char : Nat
  /-- Its ECI block. -/
  eciBlock : Nat
  deriving DecidableEq, Repr

/-- The input, read-only throughout the pass (R200). -/
structure EncoderInput where
  /-- The characters at positions `0..L-1`. -/
  characters : List InputCharacter
  /-- The configuration record. -/
  config : EncoderConfig
  deriving DecidableEq, Repr

/-- `L` (R200). -/
def EncoderInput.length (input : EncoderInput) : Nat := input.characters.length

/-! ### Edges and the cost model (R201, R203, R212) -/

/-- A character length: "Every edge has `len >= 1`" (R201), so a length of 0 cannot be written. -/
abbrev SegmentLength := { n : Nat // 1 ≤ n }

/-- An edge of R201; its predecessor edges are the rest of the list it heads, so a chain of edges is
a list, last edge first, and the empty chain is the virtual start (log 14). -/
structure Edge where
  /-- The mode the characters are encoded in. -/
  mode : Nat
  /-- The position of the first character. -/
  start : Nat
  /-- How many characters, at least 1. -/
  len : SegmentLength
  /-- The cached cumulative cost. -/
  total : Nat
  deriving DecidableEq, Repr

/-- A row of the capacity table (R209). -/
structure SymbolSize where
  /-- How many data codewords the symbol holds. -/
  capacity : Nat
  /-- Is the symbol square, or else rectangular? -/
  square : Bool
  deriving DecidableEq, Repr

/-- What a symbology supplies (R203) and R212 leaves open: each field is a parameter, and the tables
of ECI, FNC1 and macro handling are in the fields that read the input. -/
structure CostModel where
  /-- `MODES`: how many mode slots there are; slot order is numeric order (R203). -/
  slots : Nat
  /-- The mode an ending collapses to and a final unlatch leads to: ASCII in R206 and R210. -/
  asciiMode : Nat
  /-- The mode of the virtual start (R208). -/
  startMode : Nat
  /-- The `(mode, len)` pairs from a position after a chain, in the model's order (R203, R204): it
  knows the character sets of the modes. -/
  candidates : EncoderInput → Nat → List Edge → List (Nat × SegmentLength)
  /-- A segment's own encoded size: mode, first position, length, predecessors (R203). -/
  segmentCost : EncoderInput → Nat → Nat → SegmentLength → List Edge → Nat
  /-- The latch, unlatch and shift overhead from an ending mode to an edge's mode (R203). -/
  transitionCost : Nat → Nat → Nat
  /-- The test of R210 by which an edge's ending collapses to ASCII. -/
  collapses : EncoderInput → Edge → List Edge → Bool
  /-- The cost of the final unlatch from a mode, 0 where the mode needs none (R206). -/
  unlatchCost : Nat → Nat
  /-- The encoding of an edge's characters (R208). -/
  bytes : EncoderInput → Edge → List Nat
  /-- The latch and unlatch codewords from one mode to another (R208). -/
  latch : Nat → Nat → List Nat
  /-- The macro header of an input, empty when it has none (R212). Where it stands is DESIGN CHOICE, log
  20. -/
  header : EncoderInput → List Nat
  /-- Do the runs of this mode carry a byte count, as those of B256 do (R209)? -/
  countsBytes : Nat → Bool
  /-- The byte count of a run of that length (R209, R212). -/
  countBytes : Nat → List Nat
  /-- The 255-state protection of a run: its position in the stream, its count, its bytes (R209). -/
  randomize255 : Nat → List Nat → List Nat → List Nat
  /-- The first pad codeword (R209). -/
  padMarker : Nat
  /-- The 253-state pad codeword at a position of the stream (R209). -/
  randomize253 : Nat → Nat
  /-- The capacity table (R209). -/
  capacities : List SymbolSize

/-- The effective ending mode of an edge (R210), which is also the slot it is filed under (R204). -/
def CostModel.endSlot (model : CostModel) (input : EncoderInput) (e : Edge) (prev : List Edge) : Nat :=
  if model.collapses input e prev then model.asciiMode else e.mode

/-- The ending mode of a chain, or the start mode (R208). -/
def CostModel.endingMode (model : CostModel) (input : EncoderInput) : List Edge → Nat
  | [] => model.startMode
  | e :: prev => model.endSlot input e prev

/-- The cumulative cost of a chain, 0 for the virtual start (R201). -/
def chainTotal : List Edge → Nat
  | [] => 0
  | e :: _ => e.total

/-- `size(mode, i, len, prev)` in the shape R203 fixes: the predecessor's cumulative cost, the
segment's own size, and the overhead of the transition from the predecessor's ending mode. -/
def CostModel.size (model : CostModel) (input : EncoderInput) (mode i : Nat)
    (len : SegmentLength) (prev : List Edge) : Nat :=
  chainTotal prev + model.segmentCost input mode i len prev +
    model.transitionCost (model.endingMode input prev) mode

/-- The final mandatory unlatch to ASCII of R206: none for an edge that already ends there. -/
def CostModel.finalUnlatch (model : CostModel) (slot : Nat) : Nat :=
  if slot = model.asciiMode then 0 else model.unlatchCost slot

/-- `final_total(e)` (R206). -/
def CostModel.finalTotal (model : CostModel) (input : EncoderInput) (e : Edge)
    (prev : List Edge) : Nat :=
  e.total + model.finalUnlatch (model.endSlot input e prev)

/-- The latch sequence at a boundary, empty when the modes are equal (R208). -/
def CostModel.latchBytes (model : CostModel) (p q : Nat) : List Nat :=
  if p = q then [] else model.latch p q

/-! ### The search (R202, R204 to R207) -/

/-- The vertices of R202: which chain reaches position `p` in slot `m`; the newest entry counts
(log 14). -/
abbrev SlotTable := List ((Nat × Nat) × List Edge)

/-- `slot[p][m]` (R202); the empty chain is none. -/
def slotAt : SlotTable → Nat → Nat → List Edge
  | [], _, _ => []
  | ((q, k), chain) :: rest, p, m => if q = p ∧ k = m then chain else slotAt rest p m

/-- `add_edge` (R204): strictly cheaper replaces, ties keep the first. -/
def addEdge (model : CostModel) (input : EncoderInput) (table : SlotTable) (e : Edge)
    (prev : List Edge) : SlotTable :=
  let p := e.start + e.len
  let m := model.endSlot input e prev
  match slotAt table p m with
  | [] => ((p, m), e :: prev) :: table
  | best :: _ => if e.total < best.total then ((p, m), e :: prev) :: table else table

/-- `add_edges(i, prev)` (R205). -/
def addEdges (model : CostModel) (input : EncoderInput) (i : Nat) (prev : List Edge)
    (table : SlotTable) : SlotTable :=
  (model.candidates input i prev).foldl
    (fun t c =>
      addEdge model input t
        { mode := c.1, start := i, len := c.2, total := model.size input c.1 i c.2 prev } prev)
    table

/-- Step 3 of R206 at one position: every slot that holds an edge is expanded, in slot order. -/
def expandPosition (model : CostModel) (input : EncoderInput) (table : SlotTable) (i : Nat) :
    SlotTable :=
  (List.range model.slots).foldl
    (fun t m =>
      match slotAt t i m with
      | [] => t
      | e :: prev => addEdges model input i (e :: prev) t)
    table

/-- Steps 1 to 3 of R206; step 4 releases memory and has no effect on the result. -/
def sweep (model : CostModel) (input : EncoderInput) : SlotTable :=
  (List.range' 1 input.length).foldl (expandPosition model input) (addEdges model input 0 [] [])

/-- Step 5 of R206 over the remaining slots: the cheapest, the first in slot order on a tie. -/
def cheapest (model : CostModel) (input : EncoderInput) (table : SlotTable) :
    List Nat → List Edge → List Edge
  | [], best => best
  | m :: rest, best =>
    match slotAt table input.length m, best with
    | [], _ => cheapest model input table rest best
    | e :: prev, [] => cheapest model input table rest (e :: prev)
    | e :: prev, b :: bprev =>
      cheapest model input table rest
        (if model.finalTotal input e prev < model.finalTotal input b bprev then e :: prev
        else b :: bprev)

/-- `minimal_path` (R206); `none` is the failure of R207. -/
def minimalPath (model : CostModel) (input : EncoderInput) : Option (List Edge) :=
  match cheapest model input (sweep model input) (List.range model.slots) [] with
  | [] => none
  | e :: prev => some (e :: prev)

/-! ### Reconstruction and the passes after it (R208, R209) -/

/-- `reconstruct` (R208): built back to front. -/
def reconstruct (model : CostModel) (input : EncoderInput) : List Edge → List Nat
  | [] => []
  | e :: prev =>
    reconstruct model input prev ++ model.latchBytes (model.endingMode input prev) e.mode ++
      model.bytes input e

/-- A run to be given its byte count and protected, as the backward walk records it (R209). -/
structure RunMark where
  /-- How many bytes of the stream stand from the run's first byte to the end. -/
  fromEnd : Nat
  /-- How many bytes the run has. -/
  length : Nat
  deriving DecidableEq, Repr

/-- The marks the backward walk records (R209), the last run first: `after` bytes stand behind this
chain's, and `run` bytes of the run it ends in are already counted. A run goes back as far as no
boundary between modes interrupts it (log 14). -/
def runMarks (model : CostModel) (input : EncoderInput) : List Edge → Nat → Nat → List RunMark
  | [], _, _ => []
  | e :: prev, after, run =>
    let fromEnd := after + (model.bytes input e).length
    let before := fromEnd + (model.latchBytes (model.endingMode input prev) e.mode).length
    let length := run + (model.bytes input e).length
    if model.countsBytes e.mode = false then runMarks model input prev before 0
    else if prev ≠ [] ∧ model.endingMode input prev = e.mode then
      runMarks model input prev fromEnd length
    else { fromEnd := fromEnd, length := length } :: runMarks model input prev before 0

/-- One run of R209 (a): its byte count goes before it, and both are protected. -/
def protectRun (model : CostModel) (out : List Nat) (mark : RunMark) : List Nat :=
  let start := out.length - mark.fromEnd
  out.take start ++
    model.randomize255 start (model.countBytes mark.length) ((out.drop start).take mark.length) ++
    out.drop (start + mark.length)

/-- R209 (a), once the whole stream stands: the first run first, so a run's final position is known
when it is reached, and `fromEnd` still finds the runs behind it. -/
def protectRuns (model : CostModel) (input : EncoderInput) (chain : List Edge) (out : List Nat) :
    List Nat :=
  (runMarks model input chain 0 0).reverse.foldl (protectRun model) out

/-- Does the hint allow the symbol (R209)? -/
def ShapeHint.allows (hint : ShapeHint) (symbol : SymbolSize) : Bool :=
  match hint with
  | .square => symbol.square
  | .rectangular => !symbol.square
  | .any => true

/-- The smallest capacity of the table that the hint allows and `n` codewords fit (R209). -/
def symbolCapacity (table : List SymbolSize) (hint : ShapeHint) (n : Nat) : Option Nat :=
  ((table.filter fun symbol => hint.allows symbol && decide (n ≤ symbol.capacity)).map
    SymbolSize.capacity).min?

/-- `free` codewords of padding from a position on: the marker, then the 253-state sequence (R209). -/
def padding (model : CostModel) (position : Nat) : Nat → List Nat
  | 0 => []
  | free + 1 =>
    model.padMarker :: (List.range free).map fun k => model.randomize253 (position + 1 + k)

/-- R209 (b): the final padding. The *encoded size* that chooses the capacity is the length of the
stream after R209 (a), not the cached total of R201, and the final unlatch of R206, for which R208
emits no codewords, takes no room: DESIGN CHOICE, unsafe, log 19. `none` when no symbol is large enough:
DESIGN CHOICE, log 14. -/
def padToCapacity (model : CostModel) (hint : ShapeHint) (out : List Nat) : Option (List Nat) :=
  (symbolCapacity model.capacities hint out.length).map fun capacity =>
    out ++ padding model out.length (capacity - out.length)

/-- The whole encoder: search, reconstruction, and the two passes of R209 in their order. The macro
header stands before the reconstructed stream, ahead of both passes, and costs nothing in the
search: DESIGN CHOICE, unsafe, log 20. -/
def minimalEncoding (model : CostModel) (input : EncoderInput) : Option (List Nat) := do
  let chain ← minimalPath model input
  padToCapacity model input.config.shape
    (protectRuns model input chain (model.header input ++ reconstruct model input chain))

end Sys2Proof.Machine
end

