-- ==== Sys2Proof/Safety.lean ====
section
/-! DEFINITION. The terms in which claims about the machine are stated: which states are reached (the
invariants), what a legal field and a polynomial of it are, how a run ended, and which part of the
state each instruction may change. -/

namespace Sys2Proof.Machine

/-! ### Legal fields and polynomials -/

/-- The parameters `GFINIT` accepts (41_gf_scalar.md R116): `size = 2^m` with `1 <= m <= 12`, a
polynomial of degree exactly m, and 2 of full order, in the list `T` of R117. -/
def LegalField (prim size : Nat) : Prop :=
  (∃ m, 1 ≤ m ∧ m ≤ Config.mMax ∧ size = 2 ^ m) ∧ size ≤ prim ∧ prim < 2 * size ∧
    (expList prim size)[size - 1]? = some 1 ∧
    ∀ i, 1 ≤ i → i ≤ size - 2 → (expList prim size)[i]? ≠ some 1

/-- The field `GFINIT` builds from its three registers (R116 to R118). -/
def builtField (prim size base : Nat) : GF :=
  { size := size, base := base, exp := toTable (expList prim size),
    log := toTable (logList prim size) }

/-- A field element (00_scope.md R9, 41_gf_scalar.md R111). -/
def IsSymbol (f : GF) (a : Word) : Prop := a.toNat < f.size

/-- A list of field elements (R111). -/
def AreSymbols (f : GF) (l : List Word) : Prop := ∀ a ∈ l, IsSymbol f a

/-- A polynomial over the field (42_gf_poly.md R130): not empty, field elements only, no leading zero
unless it is `[0]`. -/
def IsPoly (f : GF) (p : Poly) : Prop :=
  p ≠ [] ∧ AreSymbols f p ∧ (lead p = 0 → p = [0])

/-! ### Invariants of reached states -/

/-- Both memories are in canonical form: addresses strictly rising, inside the space (20_memory.md
R40). -/
def State.MemoryCanonical (s : State) : Prop :=
  Memory.wf Config.imemWords s.imem = true ∧ Memory.wf Config.dmemWords s.dmem = true

/-- No vector register holds more than `VMAX` entries (10_state.md R14). -/
def State.VectorsFit (s : State) : Prop := ∀ r : VReg, (s.readV r).length ≤ Config.vmax

/-- The trap registers describe the only outstanding trap (R22, R23, R24, 60_exceptions.md R227). -/
def State.TrapRegistersMatch (s : State) : Prop :=
  (s.runState = .faulted → (∃ c : Cause, s.cause = causeCode c) ∧ s.epc = s.pc) ∧
  (s.runState ≠ .faulted → s.cause = 0 ∧ s.epc = 0 ∧ s.einfo = 0)

/-- `VALID = 1` means the tables were built from what the field registers now hold (10_state.md R19,
R28). -/
def State.FieldBuilt (s : State) : Prop :=
  s.gfValid = true →
    LegalField s.gfPrim.toNat s.gfSize.toNat ∧
      s.gf = builtField s.gfPrim.toNat s.gfSize.toNat s.gfBase.toNat

/-- The generator cache's invariant (10_state.md R29): entries `0..GEN_TOP`, `GEN[0] = [1]`, and while
`VALID = 1` entry `d` is the generator polynomial of degree `d`. -/
def State.CacheBuilt (s : State) : Prop :=
  s.genCache.length = s.genTop.toNat + 1 ∧ s.cached 0 = [1] ∧
    (s.gfValid = true → ∀ d, d ≤ s.genTop.toNat → s.cached d = rsGenerator s.gf d)

/-- What holds of every state the machine reaches from reset. -/
def State.Inv (s : State) : Prop :=
  s.MemoryCanonical ∧ s.VectorsFit ∧ s.TrapRegistersMatch ∧ s.FieldBuilt ∧ s.CacheBuilt

/-! ### How a run ended -/

/-- The decode errors, causes 14 to 17: they say the data is bad, not the program (60_exceptions.md
R221). -/
def decodeError (code : BitVec 5) : Bool := decide (14 ≤ code.toNat) && decide (code.toNat ≤ 17)

/-- The programmer errors, causes 1 to 13 (R221). -/
def programmerError (code : BitVec 5) : Bool := decide (1 ≤ code.toNat) && decide (code.toNat ≤ 13)

/-- A run that ended as a program means to end: by `HALT` (40_sequencer_control.md R82). -/
def State.EndedWell (s : State) : Prop := s.runState = .halted

/-! ### What each instruction may change -/

/-- The scalar register an instruction writes (30_encoding.md R65, `xd`). -/
def destX : Instr → Option XReg
  | .li d _ | .mov d _ | .add d _ _ | .sub d _ _ | .addi d _ _ | .ldw d _ _ | .csrr d _
  | .gfadd d _ _ | .gfmul d _ _ | .gfinv d _ | .gfexp d _ | .gflog d _ | .vlen d _ | .vget d _ _
  | .pdeg d _ | .pcoef d _ _ | .pisz d _ | .peval d _ _ | .rsdec d _ _ _ => some d
  | .nop | .halt | .jmp .. | .beq .. | .bne .. | .bltu .. | .stw .. | .csrw .. | .gfinit | .vld ..
  | .vst .. | .vmov .. | .pnorm .. | .pmono .. | .padd .. | .pmul .. | .pscale .. | .pmulm ..
  | .pdiv .. | .rsgen .. | .pgen .. | .rsenc .. | .rssyn .. | .rseuc .. | .rschien .. | .rsforn ..
  | .rscorr .. => none

/-- The vector registers an instruction writes (R65, `vd`); `GFINIT` empties all eight (R116). -/
def destV : Instr → List VReg
  | .vld d _ _ | .vmov d _ | .pnorm d _ | .pmono d _ _ | .padd d _ _ | .pmul d _ _
  | .pscale d _ _ | .pmulm d _ _ _ | .pgen d _ | .rssyn d _ _ _ | .rschien d _ | .rsforn d _ _ => [d]
  | .pdiv d a _ _ | .rseuc d a _ _ => [d, a]
  | .gfinit => [0, 1, 2, 3, 4, 5, 6, 7]
  | .nop | .halt | .li .. | .mov .. | .add .. | .sub .. | .addi .. | .jmp .. | .beq .. | .bne ..
  | .bltu .. | .ldw .. | .stw .. | .csrr .. | .csrw .. | .gfadd .. | .gfmul .. | .gfinv .. | .gfexp ..
  | .gflog .. | .vst .. | .vlen .. | .vget .. | .pdeg .. | .pcoef .. | .pisz .. | .peval .. | .rsgen ..
  | .rsenc .. | .rscorr .. | .rsdec .. => []

/-- The DMEM address a correction of `rs_apply` changes (44_rs_decoder.md R185). -/
def correctionAddress (f : GF) (a0 n : Nat) (loc : Word) : Nat := a0 + (n - 1 - logAt f loc)

/-- The DMEM addresses an instruction may store to in a state, computed as its meaning computes them
(R93, R141, R175, R185, R190, R192); empty for every instruction that stores nothing. -/
def storedTo (i : Instr) (s : State) : List Nat :=
  match i with
  | .stw _ a offset => [effectiveAddress s a offset]
  | .vst d a => (List.range (s.readV d).length).map fun k => (s.readX a).toNat + k
  | .rsenc a b c =>
    (List.range (s.readX c).toNat).map fun k => (s.readX a).toNat + (s.readX b).toNat + k
  | .rscorr d _ b c =>
    (s.readV d).map (correctionAddress s.gf (s.readX b).toNat (s.readX c).toNat)
  | .rsdec _ a b c =>
    match rsdecPlan s (s.readX a).toNat (s.readX b).toNat (s.readX c).toNat with
    | .ok (locs, _) => locs.map (correctionAddress s.gf (s.readX a).toNat (s.readX b).toNat)
    | .error _ => []
  | .nop | .halt | .li .. | .mov .. | .add .. | .sub .. | .addi .. | .jmp .. | .beq .. | .bne ..
  | .bltu .. | .ldw .. | .csrr .. | .csrw .. | .gfinit | .gfadd .. | .gfmul .. | .gfinv .. | .gfexp ..
  | .gflog .. | .vld .. | .vlen .. | .vget .. | .vmov .. | .pnorm .. | .pmono .. | .pdeg .. | .pcoef ..
  | .pisz .. | .padd .. | .pmul .. | .pscale .. | .pmulm .. | .pdiv .. | .peval .. | .rsgen .. | .pgen ..
  | .rssyn .. | .rseuc .. | .rschien .. | .rsforn .. => []

/-- The causes an instruction can raise after its fetch, in the order of its checks (60_exceptions.md
R222). -/
def mayRaise : Instr → List Cause
  | .nop | .halt | .li .. | .mov .. | .add .. | .sub .. | .addi .. | .jmp .. | .beq .. | .bne ..
  | .bltu .. | .vlen .. | .vmov .. => []
  | .ldw .. | .stw .. | .vld .. | .vst .. => [.dmemBounds]
  | .csrr .. | .csrw .. => [.csrAccess]
  | .gfinit => [.gfConfig]
  | .gfadd .. | .gfmul .. | .gfexp .. => [.gfNotReady, .operandRange]
  | .gfinv .. | .gflog .. => [.gfNotReady, .operandRange, .gfArith]
  | .vget .. => [.vecIndex]
  | .pnorm .. | .pdeg .. | .pcoef .. | .pisz .. | .padd .. | .pscale .. | .peval .. =>
    [.gfNotReady, .polyEmpty, .operandRange]
  | .pmono .. => [.gfNotReady, .operandRange, .vecOverflow]
  | .pmul .. | .pmulm .. => [.gfNotReady, .polyEmpty, .operandRange, .vecOverflow]
  | .pdiv .. => [.gfNotReady, .polyEmpty, .operandRange, .polyDivZero]
  | .rsgen .. | .pgen .. => [.gfNotReady, .vecOverflow]
  | .rsenc .. => [.gfNotReady, .rsParam, .dmemBounds, .operandRange]
  | .rssyn .. => [.gfNotReady, .rsParam, .dmemBounds, .operandRange, .vecOverflow]
  | .rseuc .. =>
    [.gfNotReady, .polyEmpty, .operandRange, .vecOverflow, .rsEuclidZero, .rsSigmaZero]
  | .rschien .. => [.gfNotReady, .polyEmpty, .operandRange, .rsLocatorMismatch]
  | .rsforn .. => [.gfNotReady, .polyEmpty, .operandRange, .gfArith]
  | .rscorr .. => [.gfNotReady, .rsParam, .dmemBounds, .operandRange, .gfArith, .rsBadLocation]
  | .rsdec .. =>
    [.gfNotReady, .rsParam, .dmemBounds, .operandRange, .vecOverflow, .rsSigmaZero,
      .rsLocatorMismatch, .rsBadLocation]

/-! ### Kinds of instruction -/

/-- The instructions that begin with the field-ready check, as 41_gf_scalar.md R110 lists them. -/
def needsField : Instr → Bool
  | .gfadd .. | .gfmul .. | .gfinv .. | .gfexp .. | .gflog .. | .pnorm .. | .pmono .. | .pdeg ..
  | .pcoef .. | .pisz .. | .padd .. | .pmul .. | .pscale .. | .pmulm .. | .pdiv .. | .peval ..
  | .rsgen .. | .pgen .. | .rsenc .. | .rssyn .. | .rseuc .. | .rschien .. | .rsforn .. | .rscorr ..
  | .rsdec .. => true
  | .nop | .halt | .li .. | .mov .. | .add .. | .sub .. | .addi .. | .jmp .. | .beq .. | .bne ..
  | .bltu .. | .ldw .. | .stw .. | .csrr .. | .csrw .. | .gfinit | .vld .. | .vst .. | .vlen ..
  | .vget .. | .vmov .. => false

/-- The address a jump or branch can load into the pc (30_encoding.md R64). -/
def transferTarget : Instr → Option Word
  | .jmp target | .beq _ _ target | .bne _ _ target | .bltu _ _ target => some target
  | .nop | .halt | .li .. | .mov .. | .add .. | .sub .. | .addi .. | .ldw .. | .stw .. | .csrr ..
  | .csrw .. | .gfinit | .gfadd .. | .gfmul .. | .gfinv .. | .gfexp .. | .gflog .. | .vld ..
  | .vst .. | .vlen .. | .vget .. | .vmov .. | .pnorm .. | .pmono .. | .pdeg .. | .pcoef ..
  | .pisz .. | .padd .. | .pmul .. | .pscale .. | .pmulm .. | .pdiv .. | .peval .. | .rsgen ..
  | .pgen .. | .rsenc .. | .rssyn .. | .rseuc .. | .rschien .. | .rsforn .. | .rscorr ..
  | .rsdec .. => none

/-- The vector registers an instruction reads as polynomials, in the order of its checks (42_gf_poly.md
R139). -/
def polySources : Instr → List VReg
  | .pnorm _ a | .pdeg _ a | .pcoef _ a _ | .pisz _ a | .pscale _ a _ | .pmulm _ a _ _ | .peval _ a _
  | .rschien _ a | .rsforn _ a _ => [a]
  | .padd _ a b | .pmul _ a b => [a, b]
  | .pdiv _ _ b c => [b, c]
  | .rseuc _ _ b _ => [b]
  | .nop | .halt | .li .. | .mov .. | .add .. | .sub .. | .addi .. | .jmp .. | .beq .. | .bne ..
  | .bltu .. | .ldw .. | .stw .. | .csrr .. | .csrw .. | .gfinit | .gfadd .. | .gfmul .. | .gfinv ..
  | .gfexp .. | .gflog .. | .vld .. | .vst .. | .vlen .. | .vget .. | .vmov .. | .pmono .. | .rsgen ..
  | .pgen .. | .rsenc .. | .rssyn .. | .rscorr .. | .rsdec .. => []

/-- A vector register that `poly` reads without a trap (R139). -/
def State.HoldsPoly (s : State) (r : VReg) : Prop :=
  s.readV r ≠ [] ∧ ∀ e ∈ s.readV r, e.toNat < s.gfSize.toNat

/-- The list has an entry that is no field element, and `w` is the first (R111). -/
def FirstOutside (size : Nat) (l : List Word) (w : Word) : Prop :=
  ∃ before after, l = before ++ w :: after ∧ (∀ e ∈ before, e.toNat < size) ∧ size ≤ w.toNat

/-! ### Second ways to say what the arithmetic computes -/

/-- Carry-less multiplication modulo `prim`, the other way to multiply of 41_gf_scalar.md R125: the
bits of `b` from the least significant on, `a` doubled at each. -/
def carrylessProduct (prim size : Nat) : Nat → Nat → Nat → Nat
  | 0, _, _ => 0
  | bits + 1, a, b =>
    (if b % 2 = 1 then a else 0) ^^^ carrylessProduct prim size bits (expStep prim size a) (b / 2)

/-- `a^k` in the field. -/
def gfPower (f : GF) (a : Word) (k : Nat) : Word := (List.replicate k a).foldl (gfMul f) 1

/-- The product of 44_rs_decoder.md R184 for the location with index `i`. -/
def locatorProduct (f : GF) (locs : List Word) (i : Nat) : Word :=
  ((List.range locs.length).filter (· != i)).foldl
    (fun den j =>
      gfMul f den (gfAdd 1 (gfMul f (locs.getD j 0) (gfInv f (locs.getD i 0))))) 1

/-- The magnitude of R184 for the location with index `i`. -/
def magnitudeAt (f : GF) (omega : Poly) (locs : List Word) (i : Nat) : Word :=
  let m := gfMul f (polyEval f omega (gfInv f (locs.getD i 0))) (gfInv f (locatorProduct f locs i))
  if f.base = 0 then m else gfMul f m (gfInv f (locs.getD i 0))

/-- What the DMEM word at `addr` becomes under a list of corrections (R185): every magnitude whose
location names that word is XORed into it. -/
def correctedWord (f : GF) (a0 n : Nat) (corrections : List (Word × Word)) (addr : Nat)
    (old : Word) : Word :=
  (corrections.filter fun c => correctionAddress f a0 n c.1 == addr).foldl (fun w c => w ^^^ c.2) old

/-- The corrections an instruction has decided on when its writes begin: first address, block length,
locations, magnitudes (R190, R192). -/
def plannedCorrections (i : Instr) (s : State) : Option (Nat × Nat × List Word × List Word) :=
  match i with
  | .rscorr d a b c => some ((s.readX b).toNat, (s.readX c).toNat, s.readV d, s.readV a)
  | .rsdec _ a b c =>
    match rsdecPlan s (s.readX a).toNat (s.readX b).toNat (s.readX c).toNat with
    | .ok (locs, mags) => some ((s.readX a).toNat, (s.readX b).toNat, locs, mags)
    | .error _ => none
  | .nop | .halt | .li .. | .mov .. | .add .. | .sub .. | .addi .. | .jmp .. | .beq .. | .bne ..
  | .bltu .. | .ldw .. | .stw .. | .csrr .. | .csrw .. | .gfinit | .gfadd .. | .gfmul .. | .gfinv ..
  | .gfexp .. | .gflog .. | .vld .. | .vst .. | .vlen .. | .vget .. | .vmov .. | .pnorm .. | .pmono ..
  | .pdeg .. | .pcoef .. | .pisz .. | .padd .. | .pmul .. | .pscale .. | .pmulm .. | .pdiv ..
  | .peval .. | .rsgen .. | .pgen .. | .rsenc .. | .rssyn .. | .rseuc .. | .rschien .. | .rsforn .. =>
    none

/-- The `i`-th syndrome of a block (R180). -/
def syndromeAt (f : GF) (block : List Word) (i : Nat) : Word :=
  polyEval f (norm block) (alphaPow f (i + f.base))

/-! ### The host's control of the run -/

/-- `STATUS.STATE` after a host write of `d` to `CTRL`, as the table of 60_exceptions.md R226 has it. -/
def runStateAfterCtrl (r : RunState) (d : Word32) : RunState :=
  if d.getLsbD 2 then .idle
  else match r with
    | .run => .run
    | .idle => if d.getLsbD 0 then .run else .idle
    | .halted => if d.getLsbD 1 then (if d.getLsbD 0 then .run else .idle) else .halted
    | .faulted => if d.getLsbD 1 then (if d.getLsbD 0 then .run else .idle) else .faulted

/-! ### The minimal encoder's search (48_minimal_encoding_reference.md R213) -/

/-- A chain of candidate edges from position 0 to a position (R201, R205), last edge first. -/
inductive IsChain (model : CostModel) (input : EncoderInput) : List Edge → Nat → Prop where
  /-- The virtual start. -/
  | start : IsChain model input [] 0
  /-- One more edge. -/
  | extend {prev : List Edge} {i mode : Nat} {len : SegmentLength}
      (h : IsChain model input prev i)
      (c : (mode, len) ∈ model.candidates input i prev) :
      IsChain model input
        ({ mode := mode, start := i, len := len, total := model.size input mode i len prev } :: prev)
        (i + len)

/-- The effective ending slot of a chain, none for the virtual start (R210). -/
def endingSlot (model : CostModel) (input : EncoderInput) : List Edge → Option Nat
  | [] => none
  | e :: prev => some (model.endSlot input e prev)

/-- R213's proviso for an input: the candidates, a segment's own cost and the collapse of an ending
depend on the predecessors only through their effective ending slot, the collapse not on costs
either (log 14); every edge ends in a slot of the model. That `size` is additive along a chain, the
final cost the total and a final unlatch, and every edge at least one character long (R201) is so
by definition. -/
structure AdditiveCosts (model : CostModel) (input : EncoderInput) : Prop where
  /-- The candidates depend on the ending slot alone. -/
  candidates_congr : ∀ i p q, endingSlot model input p = endingSlot model input q →
    model.candidates input i p = model.candidates input i q
  /-- The segment's own cost depends on the ending slot alone. -/
  segment_congr : ∀ mode i len p q, endingSlot model input p = endingSlot model input q →
    model.segmentCost input mode i len p = model.segmentCost input mode i len q
  /-- Whether an edge's ending collapses depends on the ending slot before it, and on no cost. -/
  collapses_congr : ∀ e k p q, endingSlot model input p = endingSlot model input q →
    model.collapses input e p = model.collapses input { e with total := k } q
  /-- Every edge ends in a slot of the model. -/
  slot_lt : ∀ i prev mode len, (mode, len) ∈ model.candidates input i prev →
    ∀ k, model.endSlot input ⟨mode, i, len, k⟩ prev < model.slots

end Sys2Proof.Machine
end

