-- ==== Sys2Proof/Certificates/Slice0/Obligations.lean ====
section
/-! DEFINITION. The statements for the provers. A statement about `exec` is about the instruction
itself; `StepRunsDecodedInstruction` carries it to a step. A next state is written out as the old
state with the fields that change, so the equation is result and frame at once. -/

section
open Sys2Proof Sys2Proof.Machine

/-! ### Encoding (30_encoding.md) -/

/-- Every well-formed instruction decodes from its own word (R61 to R65, R71). -/
def Obligations.EncodeThenDecode : Prop :=
  ∀ i : Instr, i.wellFormed = true → decode (encode i) = .ok i

/-- A word that decodes is the word of its instruction, and the instruction is well formed (R63, R67). -/
def Obligations.DecodeThenEncode : Prop :=
  ∀ (w : Word32) (i : Instr), decode w = .ok i → encode i = w ∧ i.wellFormed = true

/-- R66: a word is the instruction of a row exactly when it matches the row, and every legal word
matches one. -/
def Obligations.LegalWordsMatchTheirRow : Prop :=
  (∀ (w : Word32) (row : OpcodeRow), row ∈ opcodeRows →
    (row.matchesWord w = true ↔ ∃ i, decode w = .ok i ∧ (disassemble i).1 = row.mnemonic)) ∧
  ∀ (w : Word32) (i : Instr), decode w = .ok i → ∃ row ∈ opcodeRows, row.matchesWord w = true

/-- R67: the four cases in which a word is illegal, the opcodes the first covers, and the trap. -/
def Obligations.IllegalWordsTrap : Prop :=
  (∀ w : Word32,
    (∃ e, decode w = .error e) ↔
      (∀ row ∈ opcodeRows, row.op ≠ fieldOp w) ∨
      ∃ row ∈ opcodeRows, row.op = fieldOp w ∧
        (w &&& row.unused ≠ 0 ∨ w &&& row.vectors ≠ 0 ∨
          (row.distinct = true ∧ fieldD w = fieldA w))) ∧
  (∀ op : BitVec 8, (∀ row ∈ opcodeRows, row.op ≠ op) ↔
    op.toNat = 0x00 ∨ (0x16 ≤ op.toNat ∧ op.toNat ≤ 0x1F) ∨ (0x33 ≤ op.toNat ∧ op.toNat ≤ 0x3F) ∨
      0x46 ≤ op.toNat) ∧
  (∀ row ∈ opcodeRows, row.distinct = true ↔ row.mnemonic = "PDIV" ∨ row.mnemonic = "RSEUC") ∧
  ∀ (s : State) (e : DecodeError), s.runState = .run → s.hostQueue = [] → s.pc.toNat < 1024 →
    decode (s.readImem s.pc.toNat) = .error e →
    step s = .next
      { s with cause := 1, epc := s.pc, einfo := s.readImem s.pc.toNat, runState := .faulted }

/-- Words written out from the encodings of R81 to R192, one or more for each family. -/
def Obligations.WrittenOutWordsDecode : Prop :=
  decode 0x01000000 = .ok .nop ∧ decode 0x03100013 = .ok (.li 1 0x13) ∧
  decode 0x0744FFFF = .ok (.addi 4 4 0xFFFF) ∧ decode 0x0B23000B = .ok (.bltu 2 3 11) ∧
  decode 0x0C500064 = .ok (.ldw 5 0 100) ∧ decode 0x0D520000 = .ok (.stw 5 2 0) ∧
  decode 0x0E500004 = .ok (.csrr 5 4) ∧ decode 0x0F010000 = .ok (.csrw 1 0) ∧
  decode 0x10000000 = .ok .gfinit ∧ decode 0x12625000 = .ok (.gfmul 6 2 5) ∧
  decode 0x20023000 = .ok (.vld 0 2 3) ∧ decode 0x21080000 = .ok (.vst 0 8) ∧
  decode 0x2D102300 = .ok (.pmulm 1 0 2 3) ∧ decode 0x2E675000 = .ok (.pdiv 6 7 5 0) ∧
  decode 0x30040000 = .ok (.rsgen 4) ∧ decode 0x32023400 = .ok (.rsenc 2 3 4) ∧
  decode 0x40023400 = .ok (.rssyn 0 2 3 4) ∧ decode 0x41120400 = .ok (.rseuc 1 2 0 4) ∧
  decode 0x44342300 = .ok (.rscorr 3 4 2 3) ∧ decode 0x45523400 = .ok (.rsdec 5 2 3 4) ∧
  decode 0x12625100 = .error .unusedFieldSet ∧
  decode 0x2A812000 = .error .vectorFieldOutOfRange ∧
  decode 0x00000000 = .error .noSuchOpcode ∧ decode 0xFFFFFFFF = .error .noSuchOpcode ∧
  decode 0x2E112300 = .error .sameDestinations

/-! ### The step (40_sequencer_control.md R80) -/

/-- A running machine with no host event before it runs the instruction at its pc. This model adds
nothing around `exec`. -/
def Obligations.StepRunsDecodedInstruction : Prop :=
  ∀ (s : State) (i : Instr), s.runState = .run → s.hostQueue = [] → s.pc.toNat < 1024 →
    decode (s.readImem s.pc.toNat) = .ok i → step s = exec i s

/-- R237: every step has a next state, and a sequencer step ends running with the next pc, halted, or
faulted with one of the 17 causes. The third clause is the model's reading of R80 and R236 (log
10): a machine that does not run and has no host event stays as it is; the host's queue is the
model's (log 1). The last is the fetch bound of R80. -/
def Obligations.StepIsTotal : Prop :=
  (∀ s : State, ∃ t, step s = .next t) ∧
  (∀ s t : State, s.runState = .run → s.hostQueue = [] → step s = .next t →
    (t.runState = .run ∧ (t.pc = s.pc + 1 ∨
      ∃ i, decode (s.readImem s.pc.toNat) = .ok i ∧ transferTarget i = some t.pc)) ∨
    (t.runState = .halted ∧ t.pc = s.pc) ∨
    (t.runState = .faulted ∧ t.pc = s.pc ∧ t.epc = s.pc ∧
      ∃ c : Cause, t.cause = causeCode c)) ∧
  (∀ s : State, s.runState ≠ .run → s.hostQueue = [] → step s = .next s) ∧
  ∀ s : State, s.runState = .run → s.hostQueue = [] → 1024 ≤ s.pc.toNat →
    step s = .next
      { s with cause := 2, epc := s.pc, einfo := s.pc.setWidth 32, runState := .faulted }

/-- R12: the pc after an instruction that neither halts nor traps, and after one that does. -/
def Obligations.ProgramCounterRule : Prop :=
  ∀ (i : Instr) (s t : State), s.runState = .run → exec i s = .next t →
    (t.runState = .run → t.pc = s.pc + 1 ∨ transferTarget i = some t.pc) ∧
    (t.runState ≠ .run → t.pc = s.pc)

/-! ### Traps (60_exceptions.md) -/

/-- R225 and R229: what trap entry writes, for each of the 17 causes, and the completion line. -/
def Obligations.TrapEntryAndCompletionLine : Prop :=
  (∀ (s : State) (c : Cause) (info : Word32),
    s.trap ⟨c, info⟩ =
      { s with
        cause := match c with
          | .illegalInstruction => 1 | .imemBounds => 2 | .dmemBounds => 3 | .csrAccess => 4
          | .gfConfig => 5 | .gfNotReady => 6 | .operandRange => 7 | .gfArith => 8
          | .polyEmpty => 9 | .polyDivZero => 10 | .vecOverflow => 11 | .vecIndex => 12
          | .rsParam => 13 | .rsEuclidZero => 14 | .rsSigmaZero => 15
          | .rsLocatorMismatch => 16 | .rsBadLocation => 17
        epc := s.pc, einfo := info, runState := .faulted } ∧
    (s.trap ⟨c, info⟩).irq = s.irqEnable) ∧
  ∀ s : State, s.irq = true ↔
    s.irqEnable = true ∧ (s.runState = .halted ∨ s.runState = .faulted)

/-- R228: a trapping instruction has had no effect but the trap, except `RSCORR` and `RSDEC` with cause
17, which have made the corrections before the one reported and nothing else. -/
def Obligations.TrapsArePrecise : Prop :=
  ∀ (i : Instr) (s t : State), s.runState = .run → exec i s = .next t → t.runState = .faulted →
    (∃ e : Trap, t = s.trap e) ∨
    ∃ a0 n locs mags k, plannedCorrections i s = some (a0, n, locs, mags) ∧ k < locs.length ∧
      t = State.trap { s with dmem := t.dmem } ⟨.rsBadLocation, BitVec.ofNat 32 k⟩ ∧
      ∀ addr, t.readDmem addr =
        correctedWord s.gf a0 n ((locs.zip mags).take k) addr (s.readDmem addr)

/-- R222: the causes an instruction can raise after its fetch. The premises are the invariants of
`FieldAndCacheKept`: without them tables no `GFINIT` built could make a generator zero. -/
def Obligations.CausesPerInstruction : Prop :=
  ∀ (i : Instr) (s t : State), s.FieldBuilt → s.CacheBuilt → s.runState = .run →
    exec i s = .next t → t.runState = .faulted →
    ∃ c ∈ mayRaise i, t.cause = causeCode c

/-- R110: the 25 instructions that trap first of all while `VALID = 0`, and that the others never raise
that cause. -/
def Obligations.FieldReadyCheck : Prop :=
  ∀ (i : Instr) (s : State),
    (needsField i = true → s.gfValid = false →
      exec i s = .next
        { s with cause := 6, epc := s.pc, einfo := 0, runState := .faulted }) ∧
    (needsField i = false → s.runState = .run →
      ∀ t, exec i s = .next t → t.runState = .faulted → t.cause ≠ 6)

/-! ### What no instruction changes beyond its own effect -/

/-- Registers: only the destinations of R65 change; `GFINIT` empties every vector register. -/
def Obligations.RegisterFrame : Prop :=
  ∀ (i : Instr) (s t : State), exec i s = .next t →
    (∀ r : XReg, destX i ≠ some r → t.readX r = s.readX r) ∧
    ∀ r : VReg, r ∉ destV i → t.readV r = s.readV r

/-- DMEM: every word outside the addresses the instruction stores to reads as before. The premises are
the invariants of `FieldAndCacheKept`: they make `RSENC`'s remainder no longer than `ecCount`. -/
def Obligations.MemoryFrame : Prop :=
  ∀ (i : Instr) (s t : State), s.FieldBuilt → s.CacheBuilt → exec i s = .next t →
    ∀ addr, addr ∉ storedTo i s → t.readDmem addr = s.readDmem addr

/-- A program reaches neither IMEM nor what only the host writes, and the run state and the trap
registers only by `HALT` or a trap (R15, R41, R230). -/
def Obligations.ProgramFrame : Prop :=
  ∀ (i : Instr) (s t : State), s.runState = .run → exec i s = .next t →
    (∀ a, t.readImem a = s.readImem a) ∧ t.imem = s.imem ∧ t.entry = s.entry ∧
    t.irqEnable = s.irqEnable ∧ t.powerCycle = s.powerCycle ∧ t.hostQueue = s.hostQueue ∧
    t.hostReply = s.hostReply ∧
    (t.runState = .run ∨ (i = .halt ∧ t.runState = .halted) ∨ t.runState = .faulted) ∧
    (t.runState ≠ .faulted → t.cause = s.cause ∧ t.epc = s.epc ∧ t.einfo = s.einfo)

/-- The field registers change only by `CSRW`, `VALID` by `CSRW` and `GFINIT`, the tables by `GFINIT`, the
generator cache by `GFINIT`, `RSGEN`, `PGEN` and `RSENC`; `GEN_TOP` falls only by `GFINIT` (R19, R20,
R28, R29). -/
def Obligations.FieldStateFrame : Prop :=
  ∀ (i : Instr) (s t : State), exec i s = .next t →
    ((∀ a n, i ≠ .csrw a n) →
      t.gfPrim = s.gfPrim ∧ t.gfSize = s.gfSize ∧ t.gfBase = s.gfBase ∧
      (i ≠ .gfinit → t.gfValid = s.gfValid)) ∧
    (i ≠ .gfinit → t.expTable = s.expTable ∧ t.logTable = s.logTable ∧
      s.genTop.toNat ≤ t.genTop.toNat ∧
      ((∀ a, i ≠ .rsgen a) → (∀ d a, i ≠ .pgen d a) → (∀ a b c, i ≠ .rsenc a b c) →
        t.genTop = s.genTop ∧ t.genCache = s.genCache))

/-! ### Integer, control transfer, memory and CSR instructions -/

/-- R81, R83 to R87: the integer instructions complete in every state, with these results. -/
def Obligations.IntegerResults : Prop :=
  ∀ (s : State) (d a b : XReg) (imm : Word),
    exec .nop s = .next { s with pc := s.pc + 1 } ∧
    exec (.li d imm) s = .next { s with x := s.x.set d.val imm, pc := s.pc + 1 } ∧
    exec (.mov d a) s = .next { s with x := s.x.set d.val (s.readX a), pc := s.pc + 1 } ∧
    exec (.add d a b) s =
      .next { s with x := s.x.set d.val (s.readX a + s.readX b), pc := s.pc + 1 } ∧
    exec (.sub d a b) s =
      .next { s with x := s.x.set d.val (s.readX a - s.readX b), pc := s.pc + 1 } ∧
    exec (.addi d a imm) s =
      .next { s with x := s.x.set d.val (s.readX a + imm), pc := s.pc + 1 }

/-- R96, of results: sums modulo 2^16, and `SUB xd, xa, xb` then `ADD xd, xd, xb` restores `x[a]` in `x[d]`.
The rule's words leave out that the two registers differ; with `d = b` the subtrahend is gone, and
the second half says what happens then (log 13). -/
def Obligations.SubThenAddRestores : Prop :=
  ∀ (s t u : State) (d a b : XReg), exec (.sub d a b) s = .next t → exec (.add d d b) t = .next u →
    ((t.readX d).toNat + (s.readX b).toNat) % 2 ^ 16 = (s.readX a).toNat ∧
    (d ≠ b → u.readX d = s.readX a) ∧
    (d = b → u.readX d = 2 * (s.readX a - s.readX b))

/-- R82, R88 to R91: the control transfers complete in every state; no target is checked. -/
def Obligations.ControlTransferResults : Prop :=
  ∀ (s : State) (d a : XReg) (target : Word),
    exec .halt s = .next { s with runState := .halted } ∧
    exec (.jmp target) s = .next { s with pc := target } ∧
    exec (.beq d a target) s =
      .next { s with pc := if s.readX d = s.readX a then target else s.pc + 1 } ∧
    exec (.bne d a target) s =
      .next { s with pc := if s.readX d = s.readX a then s.pc + 1 else target } ∧
    exec (.bltu d a target) s =
      .next { s with pc := if (s.readX d).toNat < (s.readX a).toNat then target else s.pc + 1 }

/-- R92, R93, R51: loads and stores inside DMEM complete, outside they trap with the address, and a load
after a store to the same address returns the stored word. -/
def Obligations.LoadStoreResults : Prop :=
  ∀ (s : State) (d a : XReg) (offset : Word),
    ((s.readX a + offset).toNat < 4096 →
      exec (.ldw d a offset) s =
        .next { s with x := s.x.set d.val (s.readDmem (s.readX a + offset).toNat), pc := s.pc + 1 } ∧
      ∃ t, exec (.stw d a offset) s = .next t ∧ t = { s with dmem := t.dmem, pc := s.pc + 1 } ∧
        t.readDmem (s.readX a + offset).toNat = s.readX d ∧
        (∀ k, k ≠ (s.readX a + offset).toNat → t.readDmem k = s.readDmem k) ∧
        ∀ e b off, t.readX b + off = s.readX a + offset →
          exec (.ldw e b off) t = .next { t with x := t.x.set e.val (s.readX d), pc := t.pc + 1 }) ∧
    (4096 ≤ (s.readX a + offset).toNat →
      exec (.ldw d a offset) s =
        .next (s.trap ⟨.dmemBounds, (s.readX a + offset).setWidth 32⟩) ∧
      exec (.stw d a offset) s =
        .next (s.trap ⟨.dmemBounds, (s.readX a + offset).setWidth 32⟩))

/-- R94, R95 with R16 to R27: what a program reads from each CSR and what it may write; every other
access traps with the number. -/
def Obligations.CsrResults : Prop :=
  (∀ (s : State) (d : XReg) (n value : Word),
    (n, value) ∈ [(0x0000, s.gfPrim.setWidth 16), (0x0001, s.gfSize.setWidth 16),
      (0x0002, s.gfBase.setWidth 16), (0x0003, if s.gfValid then 1 else 0),
      (0x0004, s.genTop.setWidth 16), (0x0010, (runStateCode s.runState).setWidth 16),
      (0x0011, s.cause.setWidth 16), (0x0012, s.epc), (0x0013, s.einfo.setWidth 16),
      (0x0015, s.entry), (0x0016, s.pc)] →
    exec (.csrr d n) s = .next { s with x := s.x.set d.val value, pc := s.pc + 1 }) ∧
  (∀ (s : State) (d : XReg) (n : Word),
    n ∉ ([0x0000, 0x0001, 0x0002, 0x0003, 0x0004, 0x0010, 0x0011, 0x0012, 0x0013, 0x0015, 0x0016] :
      List Word) →
    exec (.csrr d n) s = .next (s.trap ⟨.csrAccess, n.setWidth 32⟩)) ∧
  (∀ (s : State) (a : XReg),
    exec (.csrw a 0x0000) s =
      .next { s with gfPrim := (s.readX a).setWidth 13, gfValid := false, pc := s.pc + 1 } ∧
    exec (.csrw a 0x0001) s =
      .next { s with gfSize := (s.readX a).setWidth 13, gfValid := false, pc := s.pc + 1 } ∧
    exec (.csrw a 0x0002) s =
      .next { s with gfBase := (s.readX a).setWidth 12, gfValid := false, pc := s.pc + 1 }) ∧
  ∀ (s : State) (a : XReg) (n : Word), 3 ≤ n.toNat →
    exec (.csrw a n) s = .next (s.trap ⟨.csrAccess, n.setWidth 32⟩)

/-! ### The field (41_gf_scalar.md) -/

/-- R116: `GFINIT` completes on a legal field, and traps with the sub-code of the first failing check. -/
def Obligations.GfinitResults : Prop :=
  ∀ s : State,
    (LegalField s.gfPrim.toNat s.gfSize.toNat →
      exec .gfinit s = .next
        { s with
          expTable := (expList s.gfPrim.toNat s.gfSize.toNat).map (BitVec.ofNat 12)
          logTable := (logList s.gfPrim.toNat s.gfSize.toNat).map (BitVec.ofNat 12)
          genCache := [[1]], genTop := 0, v := Vector.replicate 8 []
          gfValid := true, pc := s.pc + 1 }) ∧
    ((¬∃ m, 1 ≤ m ∧ m ≤ 12 ∧ s.gfSize.toNat = 2 ^ m) →
      exec .gfinit s = .next (s.trap ⟨.gfConfig, 1⟩)) ∧
    ((∃ m, 1 ≤ m ∧ m ≤ 12 ∧ s.gfSize.toNat = 2 ^ m) →
      (s.gfPrim.toNat < s.gfSize.toNat ∨ 2 * s.gfSize.toNat ≤ s.gfPrim.toNat →
        exec .gfinit s = .next (s.trap ⟨.gfConfig, 2⟩)) ∧
      (s.gfSize.toNat ≤ s.gfPrim.toNat → s.gfPrim.toNat < 2 * s.gfSize.toNat →
        ¬LegalField s.gfPrim.toNat s.gfSize.toNat →
        exec .gfinit s = .next (s.trap ⟨.gfConfig, 3⟩)))

/-- R117: the contents of EXP, and what they are on a legal field. -/
def Obligations.ExpTableContents : Prop :=
  ∀ P N : Nat,
    (expList P N).length = N ∧ (0 < N → (expList P N)[0]? = some 1) ∧
    (∀ i x, i + 1 < N → (expList P N)[i]? = some x →
      (expList P N)[i + 1]? = some (if N ≤ x * 2 then (x * 2 ^^^ P) &&& (N - 1) else x * 2)) ∧
    (LegalField P N →
      (2 < N → (expList P N)[1]? = some 2) ∧ (expList P N)[N - 1]? = some 1 ∧
      (∀ a, 1 ≤ a → a < N → ∃ i, i < N - 1 ∧ (expList P N)[i]? = some a) ∧
      (∀ i j, i < N - 1 → j < N - 1 → (expList P N)[i]? = (expList P N)[j]? → i = j) ∧
      ∀ x, x < N → N ≤ x * 2 → (x * 2 ^^^ P) &&& (N - 1) = x * 2 ^^^ P)

/-- R118: the contents of LOG on a legal field. -/
def Obligations.LogTableContents : Prop :=
  ∀ P N : Nat, LegalField P N →
    (logList P N).length = N ∧ (logList P N)[0]? = some 0 ∧ (logList P N)[1]? = some 0 ∧
    (2 < N → (logList P N)[2]? = some 1) ∧
    (∀ i x, i ≤ N - 2 → (expList P N)[i]? = some x → (logList P N)[x]? = some i) ∧
    ∀ a, 1 ≤ a → a < N → ∃ k, k ≤ N - 2 ∧ (logList P N)[a]? = some k

/-- R119 to R123: the scalar field instructions complete on operands in range, and trap on the first
one that is not, or on a zero that has no inverse or logarithm. -/
def Obligations.FieldScalarResults : Prop :=
  ∀ (s : State) (d a b : XReg), s.gfValid = true →
    ((s.readX a).toNat < s.gfSize.toNat →
      ((s.readX b).toNat < s.gfSize.toNat →
        exec (.gfadd d a b) s =
          .next { s with x := s.x.set d.val (s.readX a ^^^ s.readX b), pc := s.pc + 1 } ∧
        exec (.gfmul d a b) s = .next
          { s with
            x := s.x.set d.val
              (if s.readX a = 0 ∨ s.readX b = 0 then 0
              else expAt s.gf
                ((logAt s.gf (s.readX a) + logAt s.gf (s.readX b)) % (s.gfSize.toNat - 1)))
            pc := s.pc + 1 }) ∧
      (s.gfSize.toNat ≤ (s.readX b).toNat →
        exec (.gfadd d a b) s = .next (s.trap ⟨.operandRange, (s.readX b).setWidth 32⟩) ∧
        exec (.gfmul d a b) s = .next (s.trap ⟨.operandRange, (s.readX b).setWidth 32⟩)) ∧
      exec (.gfexp d a) s = .next
        { s with x := s.x.set d.val (expAt s.gf (s.readX a).toNat), pc := s.pc + 1 } ∧
      (s.readX a ≠ 0 →
        exec (.gfinv d a) s = .next
          { s with
            x := s.x.set d.val (expAt s.gf (s.gfSize.toNat - 1 - logAt s.gf (s.readX a)))
            pc := s.pc + 1 } ∧
        exec (.gflog d a) s = .next
          { s with x := s.x.set d.val (BitVec.ofNat 16 (logAt s.gf (s.readX a))), pc := s.pc + 1 }) ∧
      (s.readX a = 0 →
        exec (.gfinv d a) s = .next (s.trap ⟨.gfArith, 1⟩) ∧
        exec (.gflog d a) s = .next (s.trap ⟨.gfArith, 2⟩))) ∧
    (s.gfSize.toNat ≤ (s.readX a).toNat →
      ∀ i ∈ [Instr.gfadd d a b, .gfmul d a b, .gfexp d a, .gfinv d a, .gflog d a],
        exec i s = .next (s.trap ⟨.operandRange, (s.readX a).setWidth 32⟩))

/-- R124: the identities of the field functions, on every legal field and for every base. -/
def Obligations.FieldIdentities : Prop :=
  ∀ P N b : Nat, LegalField P N → ∀ f, f = builtField P N b →
    ∀ x y z : Word, IsSymbol f x → IsSymbol f y → IsSymbol f z →
      IsSymbol f (gfAdd x y) ∧ IsSymbol f (gfMul f x y) ∧ IsSymbol f (gfInv f x) ∧
      (x ≠ 0 → gfMul f x (gfInv f x) = 1) ∧ gfMul f x y = gfMul f y x ∧ gfAdd x x = 0 ∧
      (x ≠ 0 → expAt f (logAt f x) = x) ∧
      (∀ i, i ≤ N - 2 → logAt f (expAt f i) = i) ∧
      gfMul f (gfMul f x y) z = gfMul f x (gfMul f y z) ∧
      gfMul f x (gfAdd y z) = gfAdd (gfMul f x y) (gfMul f x z) ∧
      gfMul f x 1 = x ∧ gfMul f x 0 = 0 ∧ (x ≠ 0 → gfInv f (gfInv f x) = x) ∧
      (gfMul f x y = 0 → x = 0 ∨ y = 0)

/-- R125: the product by the tables is the carry-less product modulo the primitive polynomial. -/
def Obligations.MultiplyIsCarrylessProduct : Prop :=
  ∀ P N b : Nat, LegalField P N → ∀ f, f = builtField P N b →
    ∀ x y : Word, IsSymbol f x → IsSymbol f y →
      (gfMul f x y).toNat = carrylessProduct P N 12 x.toNat y.toNat

/-! ### Vectors and polynomials (42_gf_poly.md) -/

/-- R140 to R144: the raw movers complete, or trap as their rules say; they look at no field. -/
def Obligations.RawVectorResults : Prop :=
  ∀ (s : State) (dv av : VReg) (dx a b : XReg),
    ((s.readX a).toNat + (s.readX b).toNat ≤ 4096 →
      exec (.vld dv a b) s = .next
        { s with
          v := s.v.set dv.val
            ((List.range (s.readX b).toNat).map fun i => s.readDmem ((s.readX a).toNat + i))
          pc := s.pc + 1 }) ∧
    (4096 < (s.readX a).toNat + (s.readX b).toNat →
      exec (.vld dv a b) s =
        .next (s.trap ⟨.dmemBounds, BitVec.ofNat 32 (max (s.readX a).toNat 4096)⟩)) ∧
    ((s.readX a).toNat + (s.readV av).length ≤ 4096 →
      ∃ t, exec (.vst av a) s = .next t ∧ t = { s with dmem := t.dmem, pc := s.pc + 1 } ∧
        (∀ i w, (s.readV av)[i]? = some w → t.readDmem ((s.readX a).toNat + i) = w) ∧
        ∀ k, k < (s.readX a).toNat ∨ (s.readX a).toNat + (s.readV av).length ≤ k →
          t.readDmem k = s.readDmem k) ∧
    (4096 < (s.readX a).toNat + (s.readV av).length →
      exec (.vst av a) s =
        .next (s.trap ⟨.dmemBounds, BitVec.ofNat 32 (max (s.readX a).toNat 4096)⟩)) ∧
    exec (.vlen dx av) s = .next
      { s with x := s.x.set dx.val (BitVec.ofNat 16 (s.readV av).length), pc := s.pc + 1 } ∧
    (∀ w, (s.readV av)[(s.readX b).toNat]? = some w →
      exec (.vget dx av b) s = .next { s with x := s.x.set dx.val w, pc := s.pc + 1 }) ∧
    ((s.readV av).length ≤ (s.readX b).toNat →
      exec (.vget dx av b) s = .next (s.trap ⟨.vecIndex, (s.readX b).setWidth 32⟩)) ∧
    exec (.vmov dv av) s = .next { s with v := s.v.set dv.val (s.readV av), pc := s.pc + 1 }

/-- R131: `norm` drops zeros from the front while more than one entry remains, and nothing else; its
result is a polynomial. -/
def Obligations.NormRule : Prop :=
  ∀ (f : GF) (l : List Word), l ≠ [] →
    (∃ k, l = List.replicate k 0 ++ norm l) ∧ norm l ≠ [] ∧
    (lead (norm l) = 0 → norm l = [0]) ∧ norm (norm l) = norm l ∧
    (AreSymbols f l → IsPoly f (norm l))

/-- R145, R147 to R149, R155: the polynomial instructions with one polynomial source that cannot fail
beyond the checks of R139. -/
def Obligations.PolyQueryResults : Prop :=
  ∀ (s : State) (dx b : XReg) (dv a : VReg) (p : Poly), s.gfValid = true → s.HoldsPoly a →
    p = norm (s.readV a) →
    exec (.pnorm dv a) s = .next { s with v := s.v.set dv.val p, pc := s.pc + 1 } ∧
    exec (.pdeg dx a) s = .next
      { s with x := s.x.set dx.val (BitVec.ofNat 16 (p.length - 1)), pc := s.pc + 1 } ∧
    exec (.pcoef dx a b) s = .next
      { s with x := s.x.set dx.val (p.reverse.getD (s.readX b).toNat 0), pc := s.pc + 1 } ∧
    exec (.pisz dx a) s = .next
      { s with
        x := s.x.set dx.val (if (s.readV a).all (· == 0) then 1 else 0), pc := s.pc + 1 } ∧
    ((s.readX b).toNat < s.gfSize.toNat →
      exec (.peval dx a b) s = .next
        { s with
          x := s.x.set dx.val (p.foldl (fun r c => gfMul s.gf r (s.readX b) ^^^ c) 0)
          pc := s.pc + 1 }) ∧
    (s.gfSize.toNat ≤ (s.readX b).toNat →
      exec (.peval dx a b) s = .next (s.trap ⟨.operandRange, (s.readX b).setWidth 32⟩))

/-- R146, R150 to R154: the polynomial instructions that build a vector, where they complete. `PSCALE`
scales every coefficient, and `PMULM` is the product with a monomial. -/
def Obligations.PolyBuildResults : Prop :=
  ∀ (s : State) (d e a b : VReg) (k c : XReg) (p q : Poly), s.gfValid = true →
    ((s.readX c).toNat < s.gfSize.toNat → s.readX c = 0 ∨ (s.readX k).toNat ≤ 4095 →
      exec (.pmono d k c) s = .next
        { s with
          v := s.v.set d.val
            (if s.readX c = 0 then [0] else s.readX c :: List.replicate (s.readX k).toNat 0)
          pc := s.pc + 1 }) ∧
    (s.HoldsPoly a → p = norm (s.readV a) →
      ((s.readX c).toNat < s.gfSize.toNat →
        exec (.pscale d a c) s = .next
          { s with
            v := s.v.set d.val
              (if s.readX c = 0 then [0] else p.map fun x => gfMul s.gf x (s.readX c))
            pc := s.pc + 1 } ∧
        (s.readX c = 0 ∨ p = [0] ∨ p.length + (s.readX k).toNat ≤ 4096 →
          exec (.pmulm d a k c) s = .next
            { s with
              v := s.v.set d.val
                (polyMul s.gf p
                  (if s.readX c = 0 then [0] else s.readX c :: List.replicate (s.readX k).toNat 0))
              pc := s.pc + 1 })) ∧
      (s.HoldsPoly b → q = norm (s.readV b) →
        exec (.padd d a b) s =
          .next { s with v := s.v.set d.val (polyAdd p q), pc := s.pc + 1 } ∧
        (p = [0] ∨ q = [0] ∨ p.length + q.length - 1 ≤ 4096 →
          exec (.pmul d a b) s =
            .next { s with v := s.v.set d.val (polyMul s.gf p q), pc := s.pc + 1 }) ∧
        (q ≠ [0] →
          ∃ quo rem, polyDivmod s.gf p q = .ok (quo, rem) ∧
            exec (.pdiv d e a b) s =
              .next { s with v := (s.v.set d.val quo).set e.val rem, pc := s.pc + 1 })))

/-- R111, R139, R135, R136, R153, R154: the traps of the polynomial instructions, in the order of their
checks: the first source that is empty or holds a value outside the field, then a scalar outside
it, then a result too long or a zero divisor. -/
def Obligations.PolyTraps : Prop :=
  ∀ (s : State), s.gfValid = true →
    (∀ (i : Instr) (before after : List VReg) (r : VReg),
      polySources i = before ++ r :: after → (∀ v ∈ before, s.HoldsPoly v) →
      (s.readV r = [] → exec i s = .next (s.trap ⟨.polyEmpty, BitVec.ofNat 32 r.val⟩)) ∧
      ∀ w, FirstOutside s.gfSize.toNat (s.readV r) w →
        exec i s = .next (s.trap ⟨.operandRange, w.setWidth 32⟩)) ∧
    ∀ (d e a b : VReg) (k c : XReg),
      (s.gfSize.toNat ≤ (s.readX c).toNat →
        exec (.pmono d k c) s = .next (s.trap ⟨.operandRange, (s.readX c).setWidth 32⟩) ∧
        (s.HoldsPoly a →
          exec (.pscale d a c) s = .next (s.trap ⟨.operandRange, (s.readX c).setWidth 32⟩) ∧
          exec (.pmulm d a k c) s = .next (s.trap ⟨.operandRange, (s.readX c).setWidth 32⟩))) ∧
      ((s.readX c).toNat < s.gfSize.toNat → s.readX c ≠ 0 →
        (4096 ≤ (s.readX k).toNat →
          exec (.pmono d k c) s =
            .next (s.trap ⟨.vecOverflow, BitVec.ofNat 32 ((s.readX k).toNat + 1)⟩)) ∧
        (s.HoldsPoly a → norm (s.readV a) ≠ [0] →
          4096 < (norm (s.readV a)).length + (s.readX k).toNat →
          exec (.pmulm d a k c) s = .next
            (s.trap ⟨.vecOverflow,
              BitVec.ofNat 32 ((norm (s.readV a)).length + (s.readX k).toNat)⟩))) ∧
      (s.HoldsPoly a → s.HoldsPoly b →
        (norm (s.readV a) ≠ [0] → norm (s.readV b) ≠ [0] →
          4096 < (norm (s.readV a)).length + (norm (s.readV b)).length - 1 →
          exec (.pmul d a b) s = .next
            (s.trap ⟨.vecOverflow,
              BitVec.ofNat 32 ((norm (s.readV a)).length + (norm (s.readV b)).length - 1)⟩)) ∧
        (norm (s.readV b) = [0] → exec (.pdiv d e a b) s = .next (s.trap ⟨.polyDivZero, 0⟩)))

/-- R134, R135 and the ring laws of R156: the coefficients of a sum, and that polynomials with `poly_add`
and `poly_mul` are a commutative ring in which degrees add. -/
def Obligations.PolynomialRingLaws : Prop :=
  ∀ P N b : Nat, LegalField P N → ∀ f, f = builtField P N b →
    ∀ p q r : Poly, IsPoly f p → IsPoly f q → IsPoly f r →
      IsPoly f (polyAdd p q) ∧ IsPoly f (polyMul f p q) ∧
      (∀ k, coef (polyAdd p q) k = coef p k ^^^ coef q k) ∧
      polyAdd p q = polyAdd q p ∧ polyAdd (polyAdd p q) r = polyAdd p (polyAdd q r) ∧
      polyAdd p [0] = p ∧ polyAdd p p = [0] ∧
      polyMul f p q = polyMul f q p ∧
      polyMul f (polyMul f p q) r = polyMul f p (polyMul f q r) ∧ polyMul f p [1] = p ∧
      polyMul f p (polyAdd q r) = polyAdd (polyMul f p q) (polyMul f p r) ∧
      (p ≠ [0] → q ≠ [0] →
        deg (polyMul f p q) = deg p + deg q ∧
        lead (polyMul f p q) = gfMul f (lead p) (lead q))

/-- R137 and the division law of R156: quotient and remainder exist for every non-zero divisor, satisfy
the identity with the remainder's degree below the divisor's, and are the only such pair. -/
def Obligations.DivisionLaws : Prop :=
  ∀ P N b : Nat, LegalField P N → ∀ f, f = builtField P N b →
    ∀ p d : Poly, IsPoly f p → IsPoly f d →
      (d = [0] → polyDivmod f p d = .error ⟨.polyDivZero, 0⟩) ∧
      (d ≠ [0] → ∃ q r, polyDivmod f p d = .ok (q, r) ∧ IsPoly f q ∧ IsPoly f r ∧
        p = polyAdd (polyMul f q d) r ∧ (r = [0] ∨ deg r < deg d) ∧
        (∀ q' r', IsPoly f q' → IsPoly f r' → p = polyAdd (polyMul f q' d) r' →
          (r' = [0] ∨ deg r' < deg d) → q' = q ∧ r' = r) ∧
        (deg p < deg d → q = [0] ∧ r = p) ∧
        (deg d = 0 → r = [0] ∧ q = polyMul f p [gfInv f (lead d)]))

/-- R138 and the evaluation laws of R156: Horner's rule computes the sum of the terms, and evaluation
respects sums and products. -/
def Obligations.EvaluationLaws : Prop :=
  ∀ P N b : Nat, LegalField P N → ∀ f, f = builtField P N b →
    ∀ (p q : Poly) (a : Word), IsPoly f p → IsPoly f q → IsSymbol f a →
      IsSymbol f (polyEval f p a) ∧
      polyEval f p a =
        (List.range p.length).foldl (fun acc k => acc ^^^ gfMul f (coef p k) (gfPower f a k)) 0 ∧
      polyEval f p 0 = coef p 0 ∧ polyEval f p 1 = p.foldl (· ^^^ ·) 0 ∧
      polyEval f (polyAdd p q) a = polyEval f p a ^^^ polyEval f q a ∧
      polyEval f (polyMul f p q) a = gfMul f (polyEval f p a) (polyEval f q a)

/-! ### The encoder (43_rs_encoder.md) -/

/-- R170: the generator polynomial is monic of degree exactly `d`, and its roots are
α^base .. α^(base+d-1). -/
def Obligations.GeneratorShape : Prop :=
  ∀ P N b : Nat, LegalField P N → ∀ f, f = builtField P N b → ∀ d : Nat,
    rsGenerator f 0 = [1] ∧
    rsGenerator f (d + 1) = polyMul f (rsGenerator f d) [1, alphaPow f (d + b)] ∧
    IsPoly f (rsGenerator f d) ∧ (rsGenerator f d).length = d + 1 ∧ lead (rsGenerator f d) = 1 ∧
    ∀ a, IsSymbol f a →
      (polyEval f (rsGenerator f d) a = 0 ↔ ∃ i, i < d ∧ a = alphaPow f (i + b))

/-- R171, R173, R174: `RSGEN` and `PGEN` raise `GEN_TOP` to the degree and no lower, keep every cache entry
a generator polynomial, and trap on a degree above 4095. -/
def Obligations.GeneratorInstructionResults : Prop :=
  ∀ (s : State) (d : VReg) (a : XReg), s.gfValid = true → s.CacheBuilt →
    ((s.readX a).toNat ≤ 4095 →
      (∃ t, exec (.rsgen a) s = .next t ∧
        t = { s with genCache := t.genCache, genTop := t.genTop, pc := s.pc + 1 } ∧
        t.genTop.toNat = max s.genTop.toNat (s.readX a).toNat ∧
        ∀ k, k ≤ t.genTop.toNat → t.cached k = rsGenerator s.gf k) ∧
      ∃ t, exec (.pgen d a) s = .next t ∧
        t = { s with
          genCache := t.genCache, genTop := t.genTop, pc := s.pc + 1
          v := s.v.set d.val (rsGenerator s.gf (s.readX a).toNat) } ∧
        t.genTop.toNat = max s.genTop.toNat (s.readX a).toNat ∧
        ∀ k, k ≤ t.genTop.toNat → t.cached k = rsGenerator s.gf k) ∧
    (4096 ≤ (s.readX a).toNat →
      exec (.rsgen a) s =
        .next (s.trap ⟨.vecOverflow, BitVec.ofNat 32 ((s.readX a).toNat + 1)⟩) ∧
      exec (.pgen d a) s =
        .next (s.trap ⟨.vecOverflow, BitVec.ofNat 32 ((s.readX a).toNat + 1)⟩))

/-- R172, R175: `RSENC` completes on in-range data inside DMEM and writes the remainder, padded on the left,
directly after the data. -/
def Obligations.RsencResults : Prop :=
  ∀ (s : State) (a b c : XReg) (a0 n ec : Nat), s.gfValid = true → s.FieldBuilt → s.CacheBuilt →
    a0 = (s.readX a).toNat → n = (s.readX b).toNat → ec = (s.readX c).toNat →
    1 ≤ n → 1 ≤ ec → a0 + n + ec ≤ 4096 →
    (∀ i, i < n → (s.readDmem (a0 + i)).toNat < s.gfSize.toNat) →
    ∃ t q rem,
      polyDivmod s.gf (polyMul s.gf (norm (s.readRun a0 n)) (1 :: List.replicate ec 0))
        (rsGenerator s.gf ec) = .ok (q, rem) ∧
      rem.length ≤ ec ∧ exec (.rsenc a b c) s = .next t ∧
      t = { s with
        dmem := t.dmem, genCache := t.genCache, genTop := t.genTop, pc := s.pc + 1 } ∧
      t.genTop.toNat = max s.genTop.toNat ec ∧
      (∀ k, k < ec → t.readDmem (a0 + n + k) =
        (List.replicate (ec - rem.length) 0 ++ rem).getD k 0) ∧
      ∀ k, k < a0 + n ∨ a0 + n + ec ≤ k → t.readDmem k = s.readDmem k

/-- R176: the block a completed `RSENC` leaves is a multiple of the generator polynomial, all its
syndromes vanish, and `RSDEC` on it counts 0 and changes nothing. -/
def Obligations.EncodedBlockIsCodeword : Prop :=
  ∀ (s t : State) (a b c : XReg) (a0 n ec : Nat) (block : List Word),
    s.FieldBuilt → s.CacheBuilt → s.runState = .run →
    a0 = (s.readX a).toNat → n = (s.readX b).toNat → ec = (s.readX c).toNat →
    exec (.rsenc a b c) s = .next t → t.runState = .run → block = t.readRun a0 (n + ec) →
      (∃ q, IsPoly s.gf q ∧ norm block = polyMul s.gf q (rsGenerator s.gf ec)) ∧
      (∀ i, i < ec → syndromeAt s.gf block i = 0) ∧
      ∀ (d a' b' c' : XReg), (t.readX a').toNat = a0 → (t.readX b').toNat = n + ec →
        (t.readX c').toNat = ec →
        exec (.rsdec d a' b' c') t = .next { t with x := t.x.set d.val 0, pc := t.pc + 1 }

/-! ### The decoder (44_rs_decoder.md) -/

/-- R175, R186, R190, R192: the parameter, bounds and range traps of the instructions that work on blocks
in DMEM, in the order of their checks. -/
def Obligations.BlockCheckTraps : Prop :=
  ∀ (s : State) (dx a b c : XReg) (dv av : VReg) (a0 n k : Nat), s.gfValid = true →
    a0 = (s.readX a).toNat → n = (s.readX b).toNat → k = (s.readX c).toNat →
    (k = 0 → exec (.rsenc a b c) s = .next (s.trap ⟨.rsParam, 1⟩)) ∧
    (k ≠ 0 → n = 0 → exec (.rsenc a b c) s = .next (s.trap ⟨.rsParam, 2⟩)) ∧
    (k ≠ 0 → n ≠ 0 →
      (4096 < a0 + n + k →
        exec (.rsenc a b c) s = .next (s.trap ⟨.dmemBounds, BitVec.ofNat 32 (max a0 4096)⟩)) ∧
      (a0 + n + k ≤ 4096 → ∀ w, FirstOutside s.gfSize.toNat (s.readRun a0 n) w →
        exec (.rsenc a b c) s = .next (s.trap ⟨.operandRange, w.setWidth 32⟩))) ∧
    (∀ i ∈ [Instr.rssyn dv a b c, .rsdec dx a b c],
      (n = 0 → exec i s = .next (s.trap ⟨.rsParam, 2⟩)) ∧
      (n ≠ 0 → 4096 < a0 + n →
        exec i s = .next (s.trap ⟨.dmemBounds, BitVec.ofNat 32 (max a0 4096)⟩)) ∧
      (n ≠ 0 → a0 + n ≤ 4096 →
        (∀ w, FirstOutside s.gfSize.toNat (s.readRun a0 n) w →
          exec i s = .next (s.trap ⟨.operandRange, w.setWidth 32⟩)) ∧
        (AreSymbols s.gf (s.readRun a0 n) → 4095 < k →
          exec i s = .next (s.trap ⟨.vecOverflow, BitVec.ofNat 32 (k + 1)⟩)))) ∧
    ((s.readV dv).length ≠ (s.readV av).length →
      exec (.rscorr dv av a b) s = .next (s.trap ⟨.rsParam, 3⟩)) ∧
    ((s.readV dv).length = (s.readV av).length →
      (n = 0 → exec (.rscorr dv av a b) s = .next (s.trap ⟨.rsParam, 2⟩)) ∧
      (n ≠ 0 → 4096 < a0 + n →
        exec (.rscorr dv av a b) s =
          .next (s.trap ⟨.dmemBounds, BitVec.ofNat 32 (max a0 4096)⟩)) ∧
      (n ≠ 0 → a0 + n ≤ 4096 →
        (∀ w, FirstOutside s.gfSize.toNat (s.readV dv ++ s.readV av) w →
          exec (.rscorr dv av a b) s = .next (s.trap ⟨.operandRange, w.setWidth 32⟩)) ∧
        (AreSymbols s.gf (s.readV dv) → AreSymbols s.gf (s.readV av) → 0 ∈ s.readV dv →
          exec (.rscorr dv av a b) s = .next (s.trap ⟨.gfArith, 2⟩))))

/-- R180, R181, R186: `RSSYN` completes on an in-range block inside DMEM; the coefficient of x^i of its
result is the i-th syndrome, and the result is normalised. -/
def Obligations.RssynResults : Prop :=
  ∀ (s : State) (d : VReg) (a b c : XReg) (a0 n R : Nat), s.gfValid = true →
    a0 = (s.readX a).toNat → n = (s.readX b).toNat → R = (s.readX c).toNat →
    1 ≤ n → a0 + n ≤ 4096 → R ≤ 4095 →
    (∀ i, i < n → (s.readDmem (a0 + i)).toNat < s.gfSize.toNat) →
    ∃ p, exec (.rssyn d a b c) s = .next { s with v := s.v.set d.val p, pc := s.pc + 1 } ∧
      (∀ i, i < R → coef p i = syndromeAt s.gf (s.readRun a0 n) i) ∧
      (∀ i, R ≤ i → coef p i = 0) ∧ p ≠ [] ∧ (lead p = 0 → p = [0])

/-- R182, R187: `RSEUC` writes sigma and omega, or traps as the algorithm does; a zero syndrome polynomial
gives `([1], [0])`, and `R = 0` always traps. -/
def Obligations.RseucResults : Prop :=
  ∀ (s : State) (d e b : VReg) (c : XReg) (R : Nat), s.gfValid = true → s.FieldBuilt →
    s.HoldsPoly b → R = (s.readX c).toNat →
    (4095 < R →
      exec (.rseuc d e b c) s = .next (s.trap ⟨.vecOverflow, BitVec.ofNat 32 (R + 1)⟩)) ∧
    (R ≤ 4095 →
      (∀ sigma omega, rsEuclid s.gf (norm (s.readV b)) R = .ok (sigma, omega) →
        exec (.rseuc d e b c) s =
          .next { s with v := (s.v.set d.val sigma).set e.val omega, pc := s.pc + 1 }) ∧
      (∀ x, rsEuclid s.gf (norm (s.readV b)) R = .error x →
        (x = ⟨.rsEuclidZero, 0⟩ ∨ x = ⟨.rsSigmaZero, 0⟩) ∧
        exec (.rseuc d e b c) s = .next (s.trap x)) ∧
      (norm (s.readV b) = [0] → 1 ≤ R →
        exec (.rseuc d e b c) s =
          .next { s with v := (s.v.set d.val [1]).set e.val [0], pc := s.pc + 1 }) ∧
      (R = 0 → exec (.rseuc d e b c) s = .next (s.trap ⟨.rsEuclidZero, 0⟩)))

/-- R182: what a successful run of the Euclidean algorithm guarantees: sigma(0) = 1, the stopping
degree, the key equation sigma · syn = omega mod x^R, and that sigma fits. -/
def Obligations.KeyEquation : Prop :=
  ∀ P N b : Nat, LegalField P N → ∀ f, f = builtField P N b →
    ∀ (syn sigma omega : Poly) (R : Nat), IsPoly f syn →
      rsEuclid f syn R = .ok (sigma, omega) →
      IsPoly f sigma ∧ IsPoly f omega ∧ coef sigma 0 = 1 ∧ 2 * deg omega < R ∧
      deg sigma ≤ max R (deg syn) ∧
      ∃ u, IsPoly f u ∧
        polyAdd (polyMul f sigma syn) omega = polyMul f u (1 :: List.replicate R 0)

/-- R183, R188: `RSCHIEN` writes the inverse of every root in ascending order of the roots, or traps with
the number of roots; on a built field the locations are non-zero, distinct, and exactly the
inverses of the roots. -/
def Obligations.RschienResults : Prop :=
  ∀ (s : State) (d a : VReg) (sigma : Poly) (locs : List Word), s.gfValid = true →
    s.HoldsPoly a → sigma = norm (s.readV a) →
    locs = ((List.range' 1 (s.gfSize.toNat - 1)).filter fun i =>
      polyEval s.gf sigma (BitVec.ofNat 16 i) == 0).map (fun i => gfInv s.gf (BitVec.ofNat 16 i)) →
    (locs.length = deg sigma →
      exec (.rschien d a) s = .next { s with v := s.v.set d.val locs, pc := s.pc + 1 }) ∧
    (locs.length ≠ deg sigma →
      exec (.rschien d a) s =
        .next (s.trap ⟨.rsLocatorMismatch, BitVec.ofNat 32 locs.length⟩)) ∧
    (s.FieldBuilt → locs.Nodup ∧ ∀ X, X ∈ locs ↔
      IsSymbol s.gf X ∧ X ≠ 0 ∧ polyEval s.gf sigma (gfInv s.gf X) = 0)

/-- R184, R189: `RSFORN` writes Forney's magnitude of every location when the locations are non-zero and
distinct, and traps on a location outside the field, a zero one, or two equal ones. -/
def Obligations.RsfornResults : Prop :=
  ∀ (s : State) (d a b : VReg) (locs : List Word), s.gfValid = true → s.FieldBuilt →
    s.HoldsPoly a → locs = s.readV b →
    (AreSymbols s.gf locs → 0 ∉ locs → locs.Nodup →
      exec (.rsforn d a b) s = .next
        { s with
          v := s.v.set d.val
            ((List.range locs.length).map (magnitudeAt s.gf (norm (s.readV a)) locs))
          pc := s.pc + 1 }) ∧
    (AreSymbols s.gf locs → ¬(0 ∉ locs ∧ locs.Nodup) →
      exec (.rsforn d a b) s = .next (s.trap ⟨.gfArith, 1⟩)) ∧
    ∀ w, FirstOutside s.gfSize.toNat locs w →
      exec (.rsforn d a b) s = .next (s.trap ⟨.operandRange, w.setWidth 32⟩)

/-- R185, R190: `RSCORR` completes when every location names a word of the block, and XORs every magnitude
into its word; at the first location that does not, it traps with its index, the corrections
before it made. -/
def Obligations.RscorrResults : Prop :=
  ∀ (s : State) (d a : VReg) (b c : XReg) (a0 n : Nat) (locs mags : List Word), s.gfValid = true →
    a0 = (s.readX b).toNat → n = (s.readX c).toNat → locs = s.readV d → mags = s.readV a →
    locs.length = mags.length → 1 ≤ n → a0 + n ≤ 4096 → AreSymbols s.gf locs →
    AreSymbols s.gf mags → 0 ∉ locs →
    ((∀ X ∈ locs, logAt s.gf X ≤ n - 1) →
      ∃ t, exec (.rscorr d a b c) s = .next t ∧ t = { s with dmem := t.dmem, pc := s.pc + 1 } ∧
        ∀ addr, t.readDmem addr =
          correctedWord s.gf a0 n (locs.zip mags) addr (s.readDmem addr)) ∧
    ∀ k X, locs[k]? = some X → n - 1 < logAt s.gf X →
      (∀ Y ∈ locs.take k, logAt s.gf Y ≤ n - 1) →
      ∃ t, exec (.rscorr d a b c) s = .next t ∧
        t = State.trap { s with dmem := t.dmem } ⟨.rsBadLocation, BitVec.ofNat 32 k⟩ ∧
        ∀ addr, t.readDmem addr =
          correctedWord s.gf a0 n ((locs.zip mags).take k) addr (s.readDmem addr)

/-- R192: `RSDEC` on an in-range block: with all syndromes zero it writes 0 and nothing else; otherwise
it traps as the first of its steps 2 to 4 that fails, or makes the corrections they find and writes
their number, or, at the first correction outside the block, traps with its index, those before it
made. -/
def Obligations.RsdecResults : Prop :=
  ∀ (s : State) (d a b c : XReg) (a0 n R : Nat), s.gfValid = true →
    a0 = (s.readX a).toNat → n = (s.readX b).toNat → R = (s.readX c).toNat →
    1 ≤ n → a0 + n ≤ 4096 → R ≤ 4095 → AreSymbols s.gf (s.readRun a0 n) →
    ((∀ i, i < R → syndromeAt s.gf (s.readRun a0 n) i = 0) →
      exec (.rsdec d a b c) s = .next { s with x := s.x.set d.val 0, pc := s.pc + 1 }) ∧
    (¬(∀ i, i < R → syndromeAt s.gf (s.readRun a0 n) i = 0) →
      ∀ syn, syn = synPoly ((List.range R).map (syndromeAt s.gf (s.readRun a0 n))) →
      (∀ x, rsEuclid s.gf syn R = .error x → exec (.rsdec d a b c) s = .next (s.trap x)) ∧
      ∀ sigma omega, rsEuclid s.gf syn R = .ok (sigma, omega) →
      (∀ x, rsChien s.gf sigma = .error x → exec (.rsdec d a b c) s = .next (s.trap x)) ∧
      ∀ locs, rsChien s.gf sigma = .ok locs →
      (∀ x, rsForney s.gf omega locs = .error x → exec (.rsdec d a b c) s = .next (s.trap x)) ∧
      ∀ mags, rsForney s.gf omega locs = .ok mags →
      ((∀ X ∈ locs, logAt s.gf X ≤ n - 1) →
        ∃ t, exec (.rsdec d a b c) s = .next t ∧
          t = { s with
            dmem := t.dmem, x := s.x.set d.val (BitVec.ofNat 16 locs.length), pc := s.pc + 1 } ∧
          ∀ addr, t.readDmem addr =
            correctedWord s.gf a0 n (locs.zip mags) addr (s.readDmem addr)) ∧
      ∀ k X, locs[k]? = some X → n - 1 < logAt s.gf X →
        (∀ Y ∈ locs.take k, logAt s.gf Y ≤ n - 1) →
        ∃ t, exec (.rsdec d a b c) s = .next t ∧
          t = State.trap { s with dmem := t.dmem } ⟨.rsBadLocation, BitVec.ofNat 32 k⟩ ∧
          ∀ addr, t.readDmem addr =
            correctedWord s.gf a0 n ((locs.zip mags).take k) addr (s.readDmem addr))

/-- R193, R195, R198. First: on every block of in-range words inside DMEM and every `twoS <= 4095`, `RSDEC`
ends with a count in `x[d]`, the number of corrections it made, at most one for each non-zero field
element, or with one of the causes 15, 16, 17 and `x[d]` as it was. Second, the correction bound: with
`base` 0 or 1 and a block of at most `size - 1` words that `RSENC` produced, of which at most
`floor(ec / 2)` words were changed to other values below `size`, `RSDEC` completes, restores every word
of the block and writes the number of changed words; `u` is the state `RSENC` left with the block
changed, its scalar registers, other memory words and pc being whatever they are. -/
def Obligations.RsdecEndsCleanly : Prop :=
  (∀ (s : State) (d a b c : XReg) (a0 n : Nat), s.FieldBuilt → s.gfValid = true → s.runState = .run →
    a0 = (s.readX a).toNat → n = (s.readX b).toNat → 1 ≤ n → a0 + n ≤ 4096 →
    (s.readX c).toNat ≤ 4095 → AreSymbols s.gf (s.readRun a0 n) →
    ∃ t, exec (.rsdec d a b c) s = .next t ∧
      ((∃ corrections : List (Word × Word),
          t = { s with
            dmem := t.dmem, pc := s.pc + 1
            x := s.x.set d.val (BitVec.ofNat 16 corrections.length) } ∧
          corrections.length ≤ s.gfSize.toNat - 1 ∧ (corrections.map Prod.fst).Nodup ∧
          ∀ addr, t.readDmem addr =
            correctedWord s.gf a0 n corrections addr (s.readDmem addr)) ∨
        (t.runState = .faulted ∧ t.readX d = s.readX d ∧
          (t.cause = 15 ∨ t.cause = 16 ∨ t.cause = 17)))) ∧
  ∀ (s t u : State) (d a b c a' b' c' : XReg) (a0 n ec : Nat) (changed : List Nat),
    s.FieldBuilt → s.CacheBuilt → s.runState = .run → s.gfBase.toNat ≤ 1 →
    a0 = (s.readX a).toNat → n = (s.readX b).toNat + ec → ec = (s.readX c).toNat →
    n ≤ s.gfSize.toNat - 1 → exec (.rsenc a b c) s = .next t → t.runState = .run →
    u = { t with x := u.x, dmem := u.dmem, pc := u.pc } →
    (∀ k, k < n → (u.readDmem (a0 + k)).toNat < s.gfSize.toNat) →
    changed = (List.range n).filter (fun k => u.readDmem (a0 + k) != t.readDmem (a0 + k)) →
    changed.length ≤ ec / 2 →
    (u.readX a').toNat = a0 → (u.readX b').toNat = n → (u.readX c').toNat = ec →
    ∃ w, exec (.rsdec d a' b' c') u = .next w ∧
      w = { u with
        dmem := w.dmem, x := u.x.set d.val (BitVec.ofNat 16 changed.length), pc := u.pc + 1 } ∧
      (∀ k, k < n → w.readDmem (a0 + k) = t.readDmem (a0 + k)) ∧
      ∀ addr, addr < a0 ∨ a0 + n ≤ addr → w.readDmem addr = u.readDmem addr

/-! ### The host and reset (20_memory.md, 60_exceptions.md R226, 70_reset_and_hazards.md) -/

/-- R49: while the sequencer runs, exactly two transactions complete; every other is refused, changes
nothing and returns no data. That a transaction reaches the engine as a queued event is the model's
choice (log 1). -/
def Obligations.HostWhileRunning : Prop :=
  ∀ s : State, s.runState = .run →
    (∀ h : Word, s.hostRead h = if h = 0x8010 then some 1 else none) ∧
    (∀ (h : Word) (d : Word32),
      s.hostWrite h d = if h = 0x8014 ∧ d.getLsbD 2 = true then some s.softReset else none) ∧
    ∀ (e : HostEvent) (rest : List HostEvent), s.hostQueue = e :: rest →
      ((∃ h, e = .read h ∧ h ≠ 0x8010) ∨
        ∃ h d, e = .write h d ∧ ¬(h = 0x8014 ∧ d.getLsbD 2 = true)) →
      step s = .next { s with hostQueue := rest, hostReply := .refused }

/-- R47, R48 with R15 to R27: the host map with the sequencer stopped, for reads and for writes, each of
the twelve CSRs written out; what a write to `CTRL` does is R25 and R226. -/
def Obligations.HostMapWhileStopped : Prop :=
  ∀ s : State, s.runState ≠ .run → ∀ (h : Word) (d : Word32),
    (h.toNat ≤ 0x0FFF →
      s.hostRead h = some ((s.readDmem h.toNat).setWidth 32) ∧
      s.hostWrite h d = some (s.writeDmem h.toNat (d.setWidth 16))) ∧
    (0x1000 ≤ h.toNat → h.toNat ≤ 0x13FF →
      s.hostRead h = some (s.readImem (h.toNat - 0x1000)) ∧
      s.hostWrite h d = some (s.writeImem (h.toNat - 0x1000) d)) ∧
    (0x1400 ≤ h.toNat → h.toNat ≤ 0x1FFF → s.hostRead h = none ∧ s.hostWrite h d = none) ∧
    (0x2000 ≤ h.toNat → h.toNat ≤ 0x2FFF → s.hostWrite h d = none ∧
      s.hostRead h =
        if s.gfValid = true ∧ h.toNat - 0x2000 < s.gfSize.toNat then
          some ((expAt s.gf (h.toNat - 0x2000)).setWidth 32) else none) ∧
    (0x3000 ≤ h.toNat → h.toNat ≤ 0x3FFF → s.hostWrite h d = none ∧
      s.hostRead h =
        if s.gfValid = true ∧ h.toNat - 0x3000 < s.gfSize.toNat then
          some (BitVec.ofNat 32 (logAt s.gf (h - 0x3000))) else none) ∧
    (∀ r : XReg, h.toNat = 0x4000 + r.val →
      s.hostRead h = some ((s.readX r).setWidth 32) ∧
      s.hostWrite h d = some (s.writeX r (d.setWidth 16))) ∧
    (0x4010 ≤ h.toNat → h.toNat ≤ 0x7FFF → s.hostRead h = none ∧ s.hostWrite h d = none) ∧
    (0x8017 ≤ h.toNat → s.hostRead h = none ∧ s.hostWrite h d = none) ∧
    (∀ value : Word32, (h, value) ∈ [((0x8000 : Word), s.gfPrim.setWidth 32),
        (0x8001, s.gfSize.setWidth 32), (0x8002, s.gfBase.setWidth 32),
        (0x8003, if s.gfValid then 1 else 0), (0x8004, s.genTop.setWidth 32),
        (0x8010, match s.runState with | .idle => 0 | .run => 1 | .halted => 2 | .faulted => 3),
        (0x8011, s.cause.setWidth 32), (0x8012, s.epc.setWidth 32), (0x8013, s.einfo),
        (0x8014, if s.irqEnable then 0x100 else 0), (0x8015, s.entry.setWidth 32),
        (0x8016, s.pc.setWidth 32)] → s.hostRead h = some value) ∧
    (0x8000 ≤ h.toNat → h.toNat ≤ 0x8016 →
      (h ∉ [(0x8000 : Word), 0x8001, 0x8002, 0x8003, 0x8004, 0x8010, 0x8011, 0x8012, 0x8013, 0x8014,
        0x8015, 0x8016] → s.hostRead h = none) ∧
      (h ∉ [(0x8000 : Word), 0x8001, 0x8002, 0x8014, 0x8015] → s.hostWrite h d = none)) ∧
    s.hostWrite 0x8000 d = some { s with gfPrim := d.setWidth 13, gfValid := false } ∧
    s.hostWrite 0x8001 d = some { s with gfSize := d.setWidth 13, gfValid := false } ∧
    s.hostWrite 0x8002 d = some { s with gfBase := d.setWidth 12, gfValid := false } ∧
    s.hostWrite 0x8015 d = some { s with entry := d.setWidth 16 } ∧
    (d.getLsbD 2 = true → s.hostWrite 0x8014 d = some s.softReset) ∧
    (d.getLsbD 2 = false → s.hostWrite 0x8014 d = some
      { s with
        irqEnable := d.getLsbD 8
        runState := runStateAfterCtrl s.runState d
        pc := if runStateAfterCtrl s.runState d = .run then s.entry else s.pc
        cause := if d.getLsbD 1 = true ∧ s.runState ≠ .idle then 0 else s.cause
        epc := if d.getLsbD 1 = true ∧ s.runState ≠ .idle then 0 else s.epc
        einfo := if d.getLsbD 1 = true ∧ s.runState ≠ .idle then 0 else s.einfo })

/-- The host's rows of R226, and what a transaction does: a queued event is the next step (the model's
way to let the host act, log 1). A hardware reset and an `SRESET` leave the states `ResetValues`
describes, a read leaves the answer of `hostRead` and a write the state of `hostWrite`, as
`HostMapWhileStopped` and `HostWhileRunning` have them, and `STATUS.STATE` changes as the table says.
`ProgramFrame` has the rows of `HALT` and traps. -/
def Obligations.RunStateTransitions : Prop :=
  ∀ (s : State) (e : HostEvent) (rest : List HostEvent), s.hostQueue = e :: rest →
    (e = .pass → step s = State.sequencerStep { s with hostQueue := rest }) ∧
    (e = .hardReset → step s = .next { s.hardReset with hostQueue := rest } ∧
      s.hardReset.hostReply = s.hostReply) ∧
    (∀ h, e = .read h →
      (∀ value, s.hostRead h = some value →
        step s = .next { s with hostQueue := rest, hostReply := .data value }) ∧
      (s.hostRead h = none → step s = .next { s with hostQueue := rest, hostReply := .refused })) ∧
    ∀ h d, e = .write h d →
      (∀ t, s.hostWrite h d = some t →
        step s = .next { t with hostQueue := rest, hostReply := .done }) ∧
      (s.hostWrite h d = none → step s = .next { s with hostQueue := rest, hostReply := .refused }) ∧
      (h = 0x8014 → d.getLsbD 2 = true →
        step s = .next { s.softReset with hostQueue := rest, hostReply := .done }) ∧
      ∀ t, step s = .next t →
        (h ≠ 0x8014 → t.runState = s.runState ∧ t.pc = s.pc) ∧
        (h = 0x8014 → t.runState = runStateAfterCtrl s.runState d ∧
          (d.getLsbD 2 = false → s.runState ≠ .run →
            t = { s with
              irqEnable := d.getLsbD 8
              runState := t.runState
              pc := if t.runState = .run then s.entry else s.pc
              cause := if d.getLsbD 1 = true ∧ s.runState ≠ .idle then 0 else s.cause
              epc := if d.getLsbD 1 = true ∧ s.runState ≠ .idle then 0 else s.epc
              einfo := if d.getLsbD 1 = true ∧ s.runState ≠ .idle then 0 else s.einfo
              hostQueue := rest, hostReply := .done }))

/-- R33: every value guaranteed after a hardware reset and after `SRESET`, and the memories the second
keeps. (After the first IMEM and DMEM are unspecified, and nothing is said of them.) -/
def Obligations.ResetValues : Prop :=
  (∀ s t : State, t = State.reset ∨ t = s.hardReset ∨ t = s.softReset →
    (∀ r : XReg, t.readX r = 0) ∧ (∀ r : VReg, t.readV r = []) ∧ t.pc = 0 ∧ t.gfPrim = 0 ∧
    t.gfSize = 0 ∧ t.gfBase = 0 ∧ t.gfValid = false ∧ t.genTop = 0 ∧ t.genCache = [[1]] ∧
    t.runState = .idle ∧ t.cause = 0 ∧ t.epc = 0 ∧ t.einfo = 0 ∧ t.irqEnable = false ∧
    t.entry = 0 ∧ t.irq = false) ∧
  ∀ (s : State) (a : Nat), s.softReset.readDmem a = s.readDmem a ∧
    s.softReset.readImem a = s.readImem a

/-- R19: `VALID` is set only by a `GFINIT` and cleared only by a reset or a write to one of the three field
registers, by either agent. -/
def Obligations.ValidChanges : Prop :=
  ∀ s t : State, step s = .next t →
    (s.gfValid = false → t.gfValid = true → s.runState = .run ∧ s.fetch = .ok .gfinit) ∧
    (s.gfValid = true → t.gfValid = false →
      (s.runState = .run ∧ ∃ a n, s.fetch = .ok (.csrw a n) ∧ n.toNat < 3) ∨
      (∃ rest, s.hostQueue = .hardReset :: rest) ∨
      ∃ h d rest, s.hostQueue = .write h d :: rest ∧
        ((0x8000 ≤ h.toNat ∧ h.toNat ≤ 0x8002) ∨ (h = 0x8014 ∧ d.getLsbD 2 = true)))

/-! ### Invariants of every step -/

/-- Both memories keep their canonical form and stay inside their spaces (R40): no store, and no check
symbol of `RSENC`, leaves DMEM. -/
def Obligations.MemoryStaysCanonical : Prop :=
  ∀ s t : State, s.MemoryCanonical → s.FieldBuilt → s.CacheBuilt → step s = .next t →
    t.MemoryCanonical

/-- `CAUSE`, `EPC` and `EINFO` always describe the only outstanding trap (R22 to R24, R227). -/
def Obligations.TrapRegistersKept : Prop :=
  ∀ s t : State, s.TrapRegistersMatch → step s = .next t → t.TrapRegistersMatch

/-- While `VALID = 1` the tables are those of the field registers, and every cache entry is its
generator polynomial (R19, R28, R29). -/
def Obligations.FieldAndCacheKept : Prop :=
  ∀ s t : State, s.FieldBuilt → s.CacheBuilt → step s = .next t → t.FieldBuilt ∧ t.CacheBuilt

/-- No vector register ever holds more than 4096 entries (R14): in particular no sigma of the Euclidean
algorithm is too long. -/
def Obligations.VectorsAlwaysFit : Prop :=
  ∀ s t : State, s.VectorsFit → s.FieldBuilt → s.CacheBuilt → step s = .next t → t.VectorsFit

/-- The machine after reset satisfies every invariant. -/
def Obligations.ResetSatisfiesInvariants : Prop := State.reset.Inv

/-! ### The minimal encoder (48_minimal_encoding_reference.md) -/

/-- R204: an edge is kept exactly when its vertex has none or a strictly dearer one; no other vertex
changes. -/
def Obligations.AddEdgeRelaxes : Prop :=
  ∀ (model : CostModel) (input : EncoderInput) (table : SlotTable) (e : Edge) (prev : List Edge)
    (p m : Nat),
    (p = e.start + e.len → m = model.endSlot input e prev →
      (slotAt table p m = [] → slotAt (addEdge model input table e prev) p m = e :: prev) ∧
      ∀ best rest, slotAt table p m = best :: rest →
        slotAt (addEdge model input table e prev) p m =
          if e.total < best.total then e :: prev else best :: rest) ∧
    (¬(p = e.start + e.len ∧ m = model.endSlot input e prev) →
      slotAt (addEdge model input table e prev) p m = slotAt table p m)

/-- R213: under its proviso the search finds a chain whenever there is one, and no chain to the end of
the input has a smaller final total, the final unlatch of R206 included. Chains as lists and
vertices as a newest-first table are the model's (log 14). -/
def Obligations.MinimalPathIsCheapest : Prop :=
  ∀ (model : CostModel) (input : EncoderInput), AdditiveCosts model input →
    ∀ (e : Edge) (prev : List Edge), IsChain model input (e :: prev) input.length →
      ∃ best bprev, minimalPath model input = some (best :: bprev) ∧
        IsChain model input (best :: bprev) input.length ∧
        best.total + model.finalUnlatch (model.endSlot input best bprev) ≤
          e.total + model.finalUnlatch (model.endSlot input e prev)

end
end

