-- ==== Sys2Proof/Laws/State.lean ====
section
/-! SUPPORT. One lemma per field per update, true by unfolding, so that no proof unfolds a record
update; and what reading a register or a memory word gives after an update. -/

namespace Sys2Proof.Machine

/-! ### `writeX` -/

@[simp] theorem State.writeX_x (s : State) (r : XReg) (w : Word) :
    (s.writeX r w).x = s.x.set r.val w := rfl
@[simp] theorem State.writeX_v (s : State) (r : XReg) (w : Word) : (s.writeX r w).v = s.v := rfl
@[simp] theorem State.writeX_pc (s : State) (r : XReg) (w : Word) : (s.writeX r w).pc = s.pc := rfl
@[simp] theorem State.writeX_gfPrim (s : State) (r : XReg) (w : Word) :
    (s.writeX r w).gfPrim = s.gfPrim := rfl
@[simp] theorem State.writeX_gfSize (s : State) (r : XReg) (w : Word) :
    (s.writeX r w).gfSize = s.gfSize := rfl
@[simp] theorem State.writeX_gfBase (s : State) (r : XReg) (w : Word) :
    (s.writeX r w).gfBase = s.gfBase := rfl
@[simp] theorem State.writeX_gfValid (s : State) (r : XReg) (w : Word) :
    (s.writeX r w).gfValid = s.gfValid := rfl
@[simp] theorem State.writeX_genTop (s : State) (r : XReg) (w : Word) :
    (s.writeX r w).genTop = s.genTop := rfl
@[simp] theorem State.writeX_runState (s : State) (r : XReg) (w : Word) :
    (s.writeX r w).runState = s.runState := rfl
@[simp] theorem State.writeX_cause (s : State) (r : XReg) (w : Word) :
    (s.writeX r w).cause = s.cause := rfl
@[simp] theorem State.writeX_epc (s : State) (r : XReg) (w : Word) :
    (s.writeX r w).epc = s.epc := rfl
@[simp] theorem State.writeX_einfo (s : State) (r : XReg) (w : Word) :
    (s.writeX r w).einfo = s.einfo := rfl
@[simp] theorem State.writeX_irqEnable (s : State) (r : XReg) (w : Word) :
    (s.writeX r w).irqEnable = s.irqEnable := rfl
@[simp] theorem State.writeX_entry (s : State) (r : XReg) (w : Word) :
    (s.writeX r w).entry = s.entry := rfl
@[simp] theorem State.writeX_expTable (s : State) (r : XReg) (w : Word) :
    (s.writeX r w).expTable = s.expTable := rfl
@[simp] theorem State.writeX_logTable (s : State) (r : XReg) (w : Word) :
    (s.writeX r w).logTable = s.logTable := rfl
@[simp] theorem State.writeX_genCache (s : State) (r : XReg) (w : Word) :
    (s.writeX r w).genCache = s.genCache := rfl
@[simp] theorem State.writeX_imem (s : State) (r : XReg) (w : Word) :
    (s.writeX r w).imem = s.imem := rfl
@[simp] theorem State.writeX_dmem (s : State) (r : XReg) (w : Word) :
    (s.writeX r w).dmem = s.dmem := rfl
@[simp] theorem State.writeX_hostQueue (s : State) (r : XReg) (w : Word) :
    (s.writeX r w).hostQueue = s.hostQueue := rfl
@[simp] theorem State.writeX_hostReply (s : State) (r : XReg) (w : Word) :
    (s.writeX r w).hostReply = s.hostReply := rfl
@[simp] theorem State.writeX_powerCycle (s : State) (r : XReg) (w : Word) :
    (s.writeX r w).powerCycle = s.powerCycle := rfl
@[simp] theorem State.writeX_gf (s : State) (r : XReg) (w : Word) : (s.writeX r w).gf = s.gf := rfl
@[simp] theorem State.writeX_readV (s : State) (r : XReg) (w : Word) (i : VReg) :
    (s.writeX r w).readV i = s.readV i := rfl
@[simp] theorem State.writeX_readDmem (s : State) (r : XReg) (w : Word) (i : Nat) :
    (s.writeX r w).readDmem i = s.readDmem i := rfl
@[simp] theorem State.writeX_readImem (s : State) (r : XReg) (w : Word) (i : Nat) :
    (s.writeX r w).readImem i = s.readImem i := rfl
@[simp] theorem State.writeX_cached (s : State) (r : XReg) (w : Word) (d : Nat) :
    (s.writeX r w).cached d = s.cached d := rfl

/-! ### `writeV` -/

@[simp] theorem State.writeV_x (s : State) (r : VReg) (p : Poly) : (s.writeV r p).x = s.x := rfl
@[simp] theorem State.writeV_v (s : State) (r : VReg) (p : Poly) :
    (s.writeV r p).v = s.v.set r.val p := rfl
@[simp] theorem State.writeV_pc (s : State) (r : VReg) (p : Poly) : (s.writeV r p).pc = s.pc := rfl
@[simp] theorem State.writeV_gfPrim (s : State) (r : VReg) (p : Poly) :
    (s.writeV r p).gfPrim = s.gfPrim := rfl
@[simp] theorem State.writeV_gfSize (s : State) (r : VReg) (p : Poly) :
    (s.writeV r p).gfSize = s.gfSize := rfl
@[simp] theorem State.writeV_gfBase (s : State) (r : VReg) (p : Poly) :
    (s.writeV r p).gfBase = s.gfBase := rfl
@[simp] theorem State.writeV_gfValid (s : State) (r : VReg) (p : Poly) :
    (s.writeV r p).gfValid = s.gfValid := rfl
@[simp] theorem State.writeV_genTop (s : State) (r : VReg) (p : Poly) :
    (s.writeV r p).genTop = s.genTop := rfl
@[simp] theorem State.writeV_runState (s : State) (r : VReg) (p : Poly) :
    (s.writeV r p).runState = s.runState := rfl
@[simp] theorem State.writeV_cause (s : State) (r : VReg) (p : Poly) :
    (s.writeV r p).cause = s.cause := rfl
@[simp] theorem State.writeV_epc (s : State) (r : VReg) (p : Poly) :
    (s.writeV r p).epc = s.epc := rfl
@[simp] theorem State.writeV_einfo (s : State) (r : VReg) (p : Poly) :
    (s.writeV r p).einfo = s.einfo := rfl
@[simp] theorem State.writeV_irqEnable (s : State) (r : VReg) (p : Poly) :
    (s.writeV r p).irqEnable = s.irqEnable := rfl
@[simp] theorem State.writeV_entry (s : State) (r : VReg) (p : Poly) :
    (s.writeV r p).entry = s.entry := rfl
@[simp] theorem State.writeV_expTable (s : State) (r : VReg) (p : Poly) :
    (s.writeV r p).expTable = s.expTable := rfl
@[simp] theorem State.writeV_logTable (s : State) (r : VReg) (p : Poly) :
    (s.writeV r p).logTable = s.logTable := rfl
@[simp] theorem State.writeV_genCache (s : State) (r : VReg) (p : Poly) :
    (s.writeV r p).genCache = s.genCache := rfl
@[simp] theorem State.writeV_imem (s : State) (r : VReg) (p : Poly) :
    (s.writeV r p).imem = s.imem := rfl
@[simp] theorem State.writeV_dmem (s : State) (r : VReg) (p : Poly) :
    (s.writeV r p).dmem = s.dmem := rfl
@[simp] theorem State.writeV_hostQueue (s : State) (r : VReg) (p : Poly) :
    (s.writeV r p).hostQueue = s.hostQueue := rfl
@[simp] theorem State.writeV_hostReply (s : State) (r : VReg) (p : Poly) :
    (s.writeV r p).hostReply = s.hostReply := rfl
@[simp] theorem State.writeV_powerCycle (s : State) (r : VReg) (p : Poly) :
    (s.writeV r p).powerCycle = s.powerCycle := rfl
@[simp] theorem State.writeV_gf (s : State) (r : VReg) (p : Poly) : (s.writeV r p).gf = s.gf := rfl
@[simp] theorem State.writeV_readX (s : State) (r : VReg) (p : Poly) (i : XReg) :
    (s.writeV r p).readX i = s.readX i := rfl
@[simp] theorem State.writeV_readDmem (s : State) (r : VReg) (p : Poly) (i : Nat) :
    (s.writeV r p).readDmem i = s.readDmem i := rfl
@[simp] theorem State.writeV_readImem (s : State) (r : VReg) (p : Poly) (i : Nat) :
    (s.writeV r p).readImem i = s.readImem i := rfl
@[simp] theorem State.writeV_cached (s : State) (r : VReg) (p : Poly) (d : Nat) :
    (s.writeV r p).cached d = s.cached d := rfl

/-! ### `writeDmem` -/

@[simp] theorem State.writeDmem_x (s : State) (a : Nat) (w : Word) :
    (s.writeDmem a w).x = s.x := rfl
@[simp] theorem State.writeDmem_v (s : State) (a : Nat) (w : Word) :
    (s.writeDmem a w).v = s.v := rfl
@[simp] theorem State.writeDmem_pc (s : State) (a : Nat) (w : Word) :
    (s.writeDmem a w).pc = s.pc := rfl
@[simp] theorem State.writeDmem_gfPrim (s : State) (a : Nat) (w : Word) :
    (s.writeDmem a w).gfPrim = s.gfPrim := rfl
@[simp] theorem State.writeDmem_gfSize (s : State) (a : Nat) (w : Word) :
    (s.writeDmem a w).gfSize = s.gfSize := rfl
@[simp] theorem State.writeDmem_gfBase (s : State) (a : Nat) (w : Word) :
    (s.writeDmem a w).gfBase = s.gfBase := rfl
@[simp] theorem State.writeDmem_gfValid (s : State) (a : Nat) (w : Word) :
    (s.writeDmem a w).gfValid = s.gfValid := rfl
@[simp] theorem State.writeDmem_genTop (s : State) (a : Nat) (w : Word) :
    (s.writeDmem a w).genTop = s.genTop := rfl
@[simp] theorem State.writeDmem_runState (s : State) (a : Nat) (w : Word) :
    (s.writeDmem a w).runState = s.runState := rfl
@[simp] theorem State.writeDmem_cause (s : State) (a : Nat) (w : Word) :
    (s.writeDmem a w).cause = s.cause := rfl
@[simp] theorem State.writeDmem_epc (s : State) (a : Nat) (w : Word) :
    (s.writeDmem a w).epc = s.epc := rfl
@[simp] theorem State.writeDmem_einfo (s : State) (a : Nat) (w : Word) :
    (s.writeDmem a w).einfo = s.einfo := rfl
@[simp] theorem State.writeDmem_irqEnable (s : State) (a : Nat) (w : Word) :
    (s.writeDmem a w).irqEnable = s.irqEnable := rfl
@[simp] theorem State.writeDmem_entry (s : State) (a : Nat) (w : Word) :
    (s.writeDmem a w).entry = s.entry := rfl
@[simp] theorem State.writeDmem_expTable (s : State) (a : Nat) (w : Word) :
    (s.writeDmem a w).expTable = s.expTable := rfl
@[simp] theorem State.writeDmem_logTable (s : State) (a : Nat) (w : Word) :
    (s.writeDmem a w).logTable = s.logTable := rfl
@[simp] theorem State.writeDmem_genCache (s : State) (a : Nat) (w : Word) :
    (s.writeDmem a w).genCache = s.genCache := rfl
@[simp] theorem State.writeDmem_imem (s : State) (a : Nat) (w : Word) :
    (s.writeDmem a w).imem = s.imem := rfl
@[simp] theorem State.writeDmem_dmem (s : State) (a : Nat) (w : Word) :
    (s.writeDmem a w).dmem = Memory.write s.dmem a w := rfl
@[simp] theorem State.writeDmem_hostQueue (s : State) (a : Nat) (w : Word) :
    (s.writeDmem a w).hostQueue = s.hostQueue := rfl
@[simp] theorem State.writeDmem_hostReply (s : State) (a : Nat) (w : Word) :
    (s.writeDmem a w).hostReply = s.hostReply := rfl
@[simp] theorem State.writeDmem_powerCycle (s : State) (a : Nat) (w : Word) :
    (s.writeDmem a w).powerCycle = s.powerCycle := rfl
@[simp] theorem State.writeDmem_gf (s : State) (a : Nat) (w : Word) : (s.writeDmem a w).gf = s.gf := rfl
@[simp] theorem State.writeDmem_readX (s : State) (a : Nat) (w : Word) (i : XReg) :
    (s.writeDmem a w).readX i = s.readX i := rfl
@[simp] theorem State.writeDmem_readV (s : State) (a : Nat) (w : Word) (i : VReg) :
    (s.writeDmem a w).readV i = s.readV i := rfl
@[simp] theorem State.writeDmem_readImem (s : State) (a : Nat) (w : Word) (i : Nat) :
    (s.writeDmem a w).readImem i = s.readImem i := rfl
@[simp] theorem State.writeDmem_cached (s : State) (a : Nat) (w : Word) (d : Nat) :
    (s.writeDmem a w).cached d = s.cached d := rfl

/-! ### `writeImem` -/

@[simp] theorem State.writeImem_x (s : State) (a : Nat) (w : Word32) :
    (s.writeImem a w).x = s.x := rfl
@[simp] theorem State.writeImem_v (s : State) (a : Nat) (w : Word32) :
    (s.writeImem a w).v = s.v := rfl
@[simp] theorem State.writeImem_pc (s : State) (a : Nat) (w : Word32) :
    (s.writeImem a w).pc = s.pc := rfl
@[simp] theorem State.writeImem_gfPrim (s : State) (a : Nat) (w : Word32) :
    (s.writeImem a w).gfPrim = s.gfPrim := rfl
@[simp] theorem State.writeImem_gfSize (s : State) (a : Nat) (w : Word32) :
    (s.writeImem a w).gfSize = s.gfSize := rfl
@[simp] theorem State.writeImem_gfBase (s : State) (a : Nat) (w : Word32) :
    (s.writeImem a w).gfBase = s.gfBase := rfl
@[simp] theorem State.writeImem_gfValid (s : State) (a : Nat) (w : Word32) :
    (s.writeImem a w).gfValid = s.gfValid := rfl
@[simp] theorem State.writeImem_genTop (s : State) (a : Nat) (w : Word32) :
    (s.writeImem a w).genTop = s.genTop := rfl
@[simp] theorem State.writeImem_runState (s : State) (a : Nat) (w : Word32) :
    (s.writeImem a w).runState = s.runState := rfl
@[simp] theorem State.writeImem_cause (s : State) (a : Nat) (w : Word32) :
    (s.writeImem a w).cause = s.cause := rfl
@[simp] theorem State.writeImem_epc (s : State) (a : Nat) (w : Word32) :
    (s.writeImem a w).epc = s.epc := rfl
@[simp] theorem State.writeImem_einfo (s : State) (a : Nat) (w : Word32) :
    (s.writeImem a w).einfo = s.einfo := rfl
@[simp] theorem State.writeImem_irqEnable (s : State) (a : Nat) (w : Word32) :
    (s.writeImem a w).irqEnable = s.irqEnable := rfl
@[simp] theorem State.writeImem_entry (s : State) (a : Nat) (w : Word32) :
    (s.writeImem a w).entry = s.entry := rfl
@[simp] theorem State.writeImem_expTable (s : State) (a : Nat) (w : Word32) :
    (s.writeImem a w).expTable = s.expTable := rfl
@[simp] theorem State.writeImem_logTable (s : State) (a : Nat) (w : Word32) :
    (s.writeImem a w).logTable = s.logTable := rfl
@[simp] theorem State.writeImem_genCache (s : State) (a : Nat) (w : Word32) :
    (s.writeImem a w).genCache = s.genCache := rfl
@[simp] theorem State.writeImem_imem (s : State) (a : Nat) (w : Word32) :
    (s.writeImem a w).imem = Memory.write s.imem a w := rfl
@[simp] theorem State.writeImem_dmem (s : State) (a : Nat) (w : Word32) :
    (s.writeImem a w).dmem = s.dmem := rfl
@[simp] theorem State.writeImem_hostQueue (s : State) (a : Nat) (w : Word32) :
    (s.writeImem a w).hostQueue = s.hostQueue := rfl
@[simp] theorem State.writeImem_hostReply (s : State) (a : Nat) (w : Word32) :
    (s.writeImem a w).hostReply = s.hostReply := rfl
@[simp] theorem State.writeImem_powerCycle (s : State) (a : Nat) (w : Word32) :
    (s.writeImem a w).powerCycle = s.powerCycle := rfl
@[simp] theorem State.writeImem_gf (s : State) (a : Nat) (w : Word32) : (s.writeImem a w).gf = s.gf := rfl
@[simp] theorem State.writeImem_readX (s : State) (a : Nat) (w : Word32) (i : XReg) :
    (s.writeImem a w).readX i = s.readX i := rfl
@[simp] theorem State.writeImem_readV (s : State) (a : Nat) (w : Word32) (i : VReg) :
    (s.writeImem a w).readV i = s.readV i := rfl
@[simp] theorem State.writeImem_readDmem (s : State) (a : Nat) (w : Word32) (i : Nat) :
    (s.writeImem a w).readDmem i = s.readDmem i := rfl
@[simp] theorem State.writeImem_cached (s : State) (a : Nat) (w : Word32) (d : Nat) :
    (s.writeImem a w).cached d = s.cached d := rfl

/-! ### `advance` -/

@[simp] theorem State.advance_x (s : State) : s.advance.x = s.x := rfl
@[simp] theorem State.advance_v (s : State) : s.advance.v = s.v := rfl
@[simp] theorem State.advance_pc (s : State) : s.advance.pc = s.pc + 1 := rfl
@[simp] theorem State.advance_gfPrim (s : State) : s.advance.gfPrim = s.gfPrim := rfl
@[simp] theorem State.advance_gfSize (s : State) : s.advance.gfSize = s.gfSize := rfl
@[simp] theorem State.advance_gfBase (s : State) : s.advance.gfBase = s.gfBase := rfl
@[simp] theorem State.advance_gfValid (s : State) : s.advance.gfValid = s.gfValid := rfl
@[simp] theorem State.advance_genTop (s : State) : s.advance.genTop = s.genTop := rfl
@[simp] theorem State.advance_runState (s : State) : s.advance.runState = s.runState := rfl
@[simp] theorem State.advance_cause (s : State) : s.advance.cause = s.cause := rfl
@[simp] theorem State.advance_epc (s : State) : s.advance.epc = s.epc := rfl
@[simp] theorem State.advance_einfo (s : State) : s.advance.einfo = s.einfo := rfl
@[simp] theorem State.advance_irqEnable (s : State) : s.advance.irqEnable = s.irqEnable := rfl
@[simp] theorem State.advance_entry (s : State) : s.advance.entry = s.entry := rfl
@[simp] theorem State.advance_expTable (s : State) : s.advance.expTable = s.expTable := rfl
@[simp] theorem State.advance_logTable (s : State) : s.advance.logTable = s.logTable := rfl
@[simp] theorem State.advance_genCache (s : State) : s.advance.genCache = s.genCache := rfl
@[simp] theorem State.advance_imem (s : State) : s.advance.imem = s.imem := rfl
@[simp] theorem State.advance_dmem (s : State) : s.advance.dmem = s.dmem := rfl
@[simp] theorem State.advance_hostQueue (s : State) : s.advance.hostQueue = s.hostQueue := rfl
@[simp] theorem State.advance_hostReply (s : State) : s.advance.hostReply = s.hostReply := rfl
@[simp] theorem State.advance_powerCycle (s : State) : s.advance.powerCycle = s.powerCycle := rfl
@[simp] theorem State.advance_gf (s : State) : s.advance.gf = s.gf := rfl
@[simp] theorem State.advance_readX (s : State) (i : XReg) :
    s.advance.readX i = s.readX i := rfl
@[simp] theorem State.advance_readV (s : State) (i : VReg) :
    s.advance.readV i = s.readV i := rfl
@[simp] theorem State.advance_readDmem (s : State) (i : Nat) :
    s.advance.readDmem i = s.readDmem i := rfl
@[simp] theorem State.advance_readImem (s : State) (i : Nat) :
    s.advance.readImem i = s.readImem i := rfl
@[simp] theorem State.advance_cached (s : State) (d : Nat) :
    s.advance.cached d = s.cached d := rfl

/-! ### `jump` -/

@[simp] theorem State.jump_x (s : State) (t : Word) : (s.jump t).x = s.x := rfl
@[simp] theorem State.jump_v (s : State) (t : Word) : (s.jump t).v = s.v := rfl
@[simp] theorem State.jump_pc (s : State) (t : Word) : (s.jump t).pc = t := rfl
@[simp] theorem State.jump_gfPrim (s : State) (t : Word) : (s.jump t).gfPrim = s.gfPrim := rfl
@[simp] theorem State.jump_gfSize (s : State) (t : Word) : (s.jump t).gfSize = s.gfSize := rfl
@[simp] theorem State.jump_gfBase (s : State) (t : Word) : (s.jump t).gfBase = s.gfBase := rfl
@[simp] theorem State.jump_gfValid (s : State) (t : Word) : (s.jump t).gfValid = s.gfValid := rfl
@[simp] theorem State.jump_genTop (s : State) (t : Word) : (s.jump t).genTop = s.genTop := rfl
@[simp] theorem State.jump_runState (s : State) (t : Word) : (s.jump t).runState = s.runState := rfl
@[simp] theorem State.jump_cause (s : State) (t : Word) : (s.jump t).cause = s.cause := rfl
@[simp] theorem State.jump_epc (s : State) (t : Word) : (s.jump t).epc = s.epc := rfl
@[simp] theorem State.jump_einfo (s : State) (t : Word) : (s.jump t).einfo = s.einfo := rfl
@[simp] theorem State.jump_irqEnable (s : State) (t : Word) :
    (s.jump t).irqEnable = s.irqEnable := rfl
@[simp] theorem State.jump_entry (s : State) (t : Word) : (s.jump t).entry = s.entry := rfl
@[simp] theorem State.jump_expTable (s : State) (t : Word) : (s.jump t).expTable = s.expTable := rfl
@[simp] theorem State.jump_logTable (s : State) (t : Word) : (s.jump t).logTable = s.logTable := rfl
@[simp] theorem State.jump_genCache (s : State) (t : Word) : (s.jump t).genCache = s.genCache := rfl
@[simp] theorem State.jump_imem (s : State) (t : Word) : (s.jump t).imem = s.imem := rfl
@[simp] theorem State.jump_dmem (s : State) (t : Word) : (s.jump t).dmem = s.dmem := rfl
@[simp] theorem State.jump_hostQueue (s : State) (t : Word) :
    (s.jump t).hostQueue = s.hostQueue := rfl
@[simp] theorem State.jump_hostReply (s : State) (t : Word) :
    (s.jump t).hostReply = s.hostReply := rfl
@[simp] theorem State.jump_powerCycle (s : State) (t : Word) :
    (s.jump t).powerCycle = s.powerCycle := rfl
@[simp] theorem State.jump_gf (s : State) (t : Word) : (s.jump t).gf = s.gf := rfl
@[simp] theorem State.jump_readX (s : State) (t : Word) (i : XReg) :
    (s.jump t).readX i = s.readX i := rfl
@[simp] theorem State.jump_readV (s : State) (t : Word) (i : VReg) :
    (s.jump t).readV i = s.readV i := rfl
@[simp] theorem State.jump_readDmem (s : State) (t : Word) (i : Nat) :
    (s.jump t).readDmem i = s.readDmem i := rfl
@[simp] theorem State.jump_readImem (s : State) (t : Word) (i : Nat) :
    (s.jump t).readImem i = s.readImem i := rfl
@[simp] theorem State.jump_cached (s : State) (t : Word) (d : Nat) :
    (s.jump t).cached d = s.cached d := rfl

/-! ### `trap` -/

@[simp] theorem State.trap_x (s : State) (e : Trap) : (s.trap e).x = s.x := rfl
@[simp] theorem State.trap_v (s : State) (e : Trap) : (s.trap e).v = s.v := rfl
@[simp] theorem State.trap_pc (s : State) (e : Trap) : (s.trap e).pc = s.pc := rfl
@[simp] theorem State.trap_gfPrim (s : State) (e : Trap) : (s.trap e).gfPrim = s.gfPrim := rfl
@[simp] theorem State.trap_gfSize (s : State) (e : Trap) : (s.trap e).gfSize = s.gfSize := rfl
@[simp] theorem State.trap_gfBase (s : State) (e : Trap) : (s.trap e).gfBase = s.gfBase := rfl
@[simp] theorem State.trap_gfValid (s : State) (e : Trap) : (s.trap e).gfValid = s.gfValid := rfl
@[simp] theorem State.trap_genTop (s : State) (e : Trap) : (s.trap e).genTop = s.genTop := rfl
@[simp] theorem State.trap_runState (s : State) (e : Trap) : (s.trap e).runState = .faulted := rfl
@[simp] theorem State.trap_cause (s : State) (e : Trap) :
    (s.trap e).cause = causeCode e.cause := rfl
@[simp] theorem State.trap_epc (s : State) (e : Trap) : (s.trap e).epc = s.pc := rfl
@[simp] theorem State.trap_einfo (s : State) (e : Trap) : (s.trap e).einfo = e.info := rfl
@[simp] theorem State.trap_irqEnable (s : State) (e : Trap) :
    (s.trap e).irqEnable = s.irqEnable := rfl
@[simp] theorem State.trap_entry (s : State) (e : Trap) : (s.trap e).entry = s.entry := rfl
@[simp] theorem State.trap_expTable (s : State) (e : Trap) : (s.trap e).expTable = s.expTable := rfl
@[simp] theorem State.trap_logTable (s : State) (e : Trap) : (s.trap e).logTable = s.logTable := rfl
@[simp] theorem State.trap_genCache (s : State) (e : Trap) : (s.trap e).genCache = s.genCache := rfl
@[simp] theorem State.trap_imem (s : State) (e : Trap) : (s.trap e).imem = s.imem := rfl
@[simp] theorem State.trap_dmem (s : State) (e : Trap) : (s.trap e).dmem = s.dmem := rfl
@[simp] theorem State.trap_hostQueue (s : State) (e : Trap) :
    (s.trap e).hostQueue = s.hostQueue := rfl
@[simp] theorem State.trap_hostReply (s : State) (e : Trap) :
    (s.trap e).hostReply = s.hostReply := rfl
@[simp] theorem State.trap_powerCycle (s : State) (e : Trap) :
    (s.trap e).powerCycle = s.powerCycle := rfl
@[simp] theorem State.trap_gf (s : State) (e : Trap) : (s.trap e).gf = s.gf := rfl
@[simp] theorem State.trap_readX (s : State) (e : Trap) (i : XReg) :
    (s.trap e).readX i = s.readX i := rfl
@[simp] theorem State.trap_readV (s : State) (e : Trap) (i : VReg) :
    (s.trap e).readV i = s.readV i := rfl
@[simp] theorem State.trap_readDmem (s : State) (e : Trap) (i : Nat) :
    (s.trap e).readDmem i = s.readDmem i := rfl
@[simp] theorem State.trap_readImem (s : State) (e : Trap) (i : Nat) :
    (s.trap e).readImem i = s.readImem i := rfl
@[simp] theorem State.trap_cached (s : State) (e : Trap) (d : Nat) :
    (s.trap e).cached d = s.cached d := rfl

/-! ### `buildField` -/

@[simp] theorem State.buildField_x (s : State) : s.buildField.x = s.x := rfl
@[simp] theorem State.buildField_v (s : State) : s.buildField.v = Vector.replicate 8 [] := rfl
@[simp] theorem State.buildField_pc (s : State) : s.buildField.pc = s.pc := rfl
@[simp] theorem State.buildField_gfPrim (s : State) : s.buildField.gfPrim = s.gfPrim := rfl
@[simp] theorem State.buildField_gfSize (s : State) : s.buildField.gfSize = s.gfSize := rfl
@[simp] theorem State.buildField_gfBase (s : State) : s.buildField.gfBase = s.gfBase := rfl
@[simp] theorem State.buildField_gfValid (s : State) : s.buildField.gfValid = true := rfl
@[simp] theorem State.buildField_genTop (s : State) : s.buildField.genTop = 0 := rfl
@[simp] theorem State.buildField_runState (s : State) : s.buildField.runState = s.runState := rfl
@[simp] theorem State.buildField_cause (s : State) : s.buildField.cause = s.cause := rfl
@[simp] theorem State.buildField_epc (s : State) : s.buildField.epc = s.epc := rfl
@[simp] theorem State.buildField_einfo (s : State) : s.buildField.einfo = s.einfo := rfl
@[simp] theorem State.buildField_irqEnable (s : State) : s.buildField.irqEnable = s.irqEnable := rfl
@[simp] theorem State.buildField_entry (s : State) : s.buildField.entry = s.entry := rfl
@[simp] theorem State.buildField_expTable (s : State) :
    s.buildField.expTable = toTable (expList s.gfPrim.toNat s.gfSize.toNat) := rfl
@[simp] theorem State.buildField_logTable (s : State) :
    s.buildField.logTable = toTable (logList s.gfPrim.toNat s.gfSize.toNat) := rfl
@[simp] theorem State.buildField_genCache (s : State) : s.buildField.genCache = [[1]] := rfl
@[simp] theorem State.buildField_imem (s : State) : s.buildField.imem = s.imem := rfl
@[simp] theorem State.buildField_dmem (s : State) : s.buildField.dmem = s.dmem := rfl
@[simp] theorem State.buildField_hostQueue (s : State) : s.buildField.hostQueue = s.hostQueue := rfl
@[simp] theorem State.buildField_hostReply (s : State) : s.buildField.hostReply = s.hostReply := rfl
@[simp] theorem State.buildField_powerCycle (s : State) :
    s.buildField.powerCycle = s.powerCycle := rfl
@[simp] theorem State.buildField_readX (s : State) (i : XReg) :
    s.buildField.readX i = s.readX i := rfl
@[simp] theorem State.buildField_readDmem (s : State) (i : Nat) :
    s.buildField.readDmem i = s.readDmem i := rfl
@[simp] theorem State.buildField_readImem (s : State) (i : Nat) :
    s.buildField.readImem i = s.readImem i := rfl

/-! ### Reading a register after a register write -/

@[simp] theorem State.readX_writeX_same (s : State) (r : XReg) (w : Word) :
    (s.writeX r w).readX r = w := by
  simp [State.readX]

theorem State.readX_writeX_ne (s : State) (r i : XReg) (w : Word) (h : i ≠ r) :
    (s.writeX r w).readX i = s.readX i := by
  have h' : ¬ r.val = i.val := fun e => h (Fin.ext e.symm)
  simp [State.readX, h']

@[simp] theorem State.readV_writeV_same (s : State) (r : VReg) (p : Poly) :
    (s.writeV r p).readV r = p := by
  simp [State.readV]

theorem State.readV_writeV_ne (s : State) (r i : VReg) (p : Poly) (h : i ≠ r) :
    (s.writeV r p).readV i = s.readV i := by
  have h' : ¬ r.val = i.val := fun e => h (Fin.ext e.symm)
  simp [State.readV, h']

@[simp] theorem State.readV_buildField (s : State) (i : VReg) : s.buildField.readV i = [] := by
  simp [State.readV]

theorem State.buildField_gf (s : State) :
    s.buildField.gf =
      { size := s.gfSize.toNat, base := s.gfBase.toNat,
        exp := toTable (expList s.gfPrim.toNat s.gfSize.toNat),
        log := toTable (logList s.gfPrim.toNat s.gfSize.toNat) } := rfl

end Sys2Proof.Machine
end

