-- ==== Sys2Proof/Laws/Checks.lean ====
section
/-! SUPPORT. One lemma per shared operation that says once everything it can answer: the ends of an
instruction, the checks (R43, R110, R111, R139), branches, the CSR accesses, the generator cache,
START, CLEAR, the resets and the host port. Later proofs cite these and unfold nothing. -/

namespace Sys2Proof.Machine

/-! ### Sequencing of checks -/

theorem bind_eq_ok {α β : Type} (r : Except Trap α) (f : α → Except Trap β) (b : β) :
    (r >>= f) = .ok b ↔ ∃ a, r = .ok a ∧ f a = .ok b := by
  cases r <;> simp [bind, Except.bind]

theorem bind_eq_error {α β : Type} (r : Except Trap α) (f : α → Except Trap β) (e : Trap) :
    (r >>= f) = .error e ↔ r = .error e ∨ ∃ a, r = .ok a ∧ f a = .error e := by
  cases r <;> simp [bind, Except.bind]

@[simp] theorem ok_bind {α β : Type} (a : α) (f : α → Except Trap β) :
    ((.ok a : Except Trap α) >>= f) = f a := rfl

@[simp] theorem error_bind {α β : Type} (e : Trap) (f : α → Except Trap β) :
    ((.error e : Except Trap α) >>= f) = .error e := rfl

@[simp] theorem pure_eq_ok {α : Type} (a : α) : (pure a : Except Trap α) = .ok a := rfl

@[simp] theorem raiseTrap_ne_ok {α : Type} (c : Cause) (n : Nat) (a : α) :
    raiseTrap c n ≠ (.ok a : Except Trap α) := by simp [raiseTrap]

theorem raiseTrap_eq_error {α : Type} (c : Cause) (n : Nat) (e : Trap) :
    (raiseTrap c n : Except Trap α) = .error e ↔ e = ⟨c, BitVec.ofNat 32 n⟩ := by
  simp [raiseTrap, eq_comm]

/-! ### How an instruction ends -/

@[simp] theorem complete_ok (s t : State) : complete s (.ok t) = .next t.advance := rfl

@[simp] theorem complete_error (s : State) (e : Trap) : complete s (.error e) = .next (s.trap e) := rfl

theorem complete_eq_next (s t : State) (r : Except Trap State) :
    complete s r = .next t ↔
      (∃ u, r = .ok u ∧ t = u.advance) ∨ ∃ e, r = .error e ∧ t = s.trap e := by
  cases r <;> simp [eq_comm]

theorem completeFrom_eq_next (r : State × Option Trap) (t : State) :
    completeFrom r = .next t ↔
      (r.2 = none ∧ t = r.1.advance) ∨ ∃ e, r.2 = some e ∧ t = r.1.trap e := by
  rcases r with ⟨u, _ | e⟩ <;> simp [completeFrom, eq_comm]

theorem branch_eq (s : State) (taken : Bool) (target : Word) :
    s.branch taken target = { s with pc := if taken then target else s.pc + 1 } := by
  cases taken <;> rfl

/-! ### Field ready and symbol range (R110, R111) -/

theorem requireGf_eq_ok (s : State) : requireGf s = .ok () ↔ s.gfValid = true := by
  unfold requireGf; split <;> simp_all

theorem requireGf_eq_error (s : State) (e : Trap) :
    requireGf s = .error e ↔ s.gfValid = false ∧ e = ⟨.gfNotReady, 0⟩ := by
  unfold requireGf; split <;> simp_all [raiseTrap_eq_error]

theorem requireSym_eq_ok (s : State) (a : Word) :
    requireSym s a = .ok () ↔ a.toNat < s.gfSize.toNat := by
  unfold requireSym; split <;> simp_all

theorem requireSym_eq_error (s : State) (a : Word) (e : Trap) :
    requireSym s a = .error e ↔
      s.gfSize.toNat ≤ a.toNat ∧ e = ⟨.operandRange, BitVec.ofNat 32 a.toNat⟩ := by
  unfold requireSym; split <;> simp_all [raiseTrap_eq_error]

theorem requireSyms_eq_ok (s : State) (l : List Word) :
    requireSyms s l = .ok () ↔ ∀ a ∈ l, a.toNat < s.gfSize.toNat := by
  induction l with
  | nil => simp [requireSyms]
  | cons a l ih =>
    rw [requireSyms, bind_eq_ok, List.forall_mem_cons, ← ih, ← requireSym_eq_ok s a]
    exact ⟨fun ⟨(), h⟩ => h, fun h => ⟨(), h⟩⟩

/-- The first offending entry is the one reported (R111). -/
theorem requireSyms_eq_error (s : State) (l : List Word) (e : Trap) :
    requireSyms s l = .error e ↔
      ∃ before a after, l = before ++ a :: after ∧ (∀ b ∈ before, b.toNat < s.gfSize.toNat) ∧
        s.gfSize.toNat ≤ a.toNat ∧ e = ⟨.operandRange, BitVec.ofNat 32 a.toNat⟩ := by
  induction l with
  | nil => simp [requireSyms]
  | cons c l ih =>
    rw [requireSyms, bind_eq_error, requireSym_eq_error]
    constructor
    · rintro (⟨h, rfl⟩ | ⟨_, h, k⟩)
      · exact ⟨[], c, l, rfl, by simp, h, rfl⟩
      · obtain ⟨before, a, after, rfl, hb, ha, rfl⟩ := ih.1 k
        exact ⟨c :: before, a, after, rfl, by simpa [(requireSym_eq_ok s c).1 h] using hb, ha, rfl⟩
    · rintro ⟨before, a, after, hl, hb, ha, rfl⟩
      cases before with
      | nil => cases hl; exact .inl ⟨ha, rfl⟩
      | cons b before =>
        obtain ⟨rfl, rfl⟩ := List.cons.inj hl
        exact .inr ⟨(), (requireSym_eq_ok s c).2 (hb c (by simp)),
          ih.2 ⟨before, a, after, rfl, fun x hx => hb x (by simp [hx]), ha, rfl⟩⟩

/-! ### A vector register read as a polynomial (R139) -/

theorem readPoly_eq_ok (s : State) (r : VReg) (p : Poly) :
    readPoly s r = .ok p ↔
      s.readV r ≠ [] ∧ (∀ a ∈ s.readV r, a.toNat < s.gfSize.toNat) ∧ p = norm (s.readV r) := by
  unfold readPoly
  split
  · next h => simp [List.length_eq_zero_iff.1 h, raiseTrap]
  · next h =>
    simp only [pure_eq_ok, bind_eq_ok, Except.ok.injEq]
    rw [← requireSyms_eq_ok]
    constructor
    · rintro ⟨_, hs, rfl⟩; exact ⟨fun k => h (by simp [k]), hs, rfl⟩
    · rintro ⟨_, hs, rfl⟩; exact ⟨PUnit.unit, hs, rfl⟩

theorem readPoly_eq_error (s : State) (r : VReg) (e : Trap) :
    readPoly s r = .error e ↔
      (s.readV r = [] ∧ e = ⟨.polyEmpty, BitVec.ofNat 32 r.val⟩) ∨
        (s.readV r ≠ [] ∧ requireSyms s (s.readV r) = .error e) := by
  unfold readPoly
  split
  · next h => simp [List.length_eq_zero_iff.1 h, raiseTrap, @eq_comm _ e]
  · next h =>
    have hne : s.readV r ≠ [] := fun k => h (by simp [k])
    simp [bind_eq_error, hne]

/-! ### Bounds and lengths (R43, R173, R186) -/

theorem requireWord_eq_ok (a : Nat) : requireWord a = .ok () ↔ a < 4096 := by
  unfold requireWord; split <;> simp_all [Config.dmemWords]

theorem requireWord_eq_error (a : Nat) (e : Trap) :
    requireWord a = .error e ↔ 4096 ≤ a ∧ e = ⟨.dmemBounds, BitVec.ofNat 32 a⟩ := by
  unfold requireWord; split <;> simp_all [Config.dmemWords, raiseTrap_eq_error]

theorem requireRun_eq_ok (a n : Nat) : requireRun a n = .ok () ↔ a + n ≤ 4096 := by
  unfold requireRun; split <;> simp_all [Config.dmemWords]

theorem requireRun_eq_error (a n : Nat) (e : Trap) :
    requireRun a n = .error e ↔ 4096 < a + n ∧ e = ⟨.dmemBounds, BitVec.ofNat 32 (max a 4096)⟩ := by
  unfold requireRun; split <;> simp_all [Config.dmemWords, raiseTrap_eq_error]

theorem requireLength_eq_ok (n : Nat) : requireLength n = .ok () ↔ n ≤ 4096 := by
  unfold requireLength; split <;> simp_all [Config.vmax]

theorem requireLength_eq_error (n : Nat) (e : Trap) :
    requireLength n = .error e ↔ 4096 < n ∧ e = ⟨.vecOverflow, BitVec.ofNat 32 n⟩ := by
  unfold requireLength; split <;> simp_all [Config.vmax, raiseTrap_eq_error]

@[simp] theorem readRun_length (s : State) (a n : Nat) : (s.readRun a n).length = n := by
  simp [State.readRun]

theorem mem_readRun (s : State) (a n : Nat) (w : Word) :
    w ∈ s.readRun a n ↔ ∃ i, i < n ∧ s.readDmem (a + i) = w := by
  simp [State.readRun]

/-! ### Control and status registers (R15, R94, R95) -/

theorem csrRead_eq_ok (s : State) (n : Nat) (w : Word) :
    csrRead s n = .ok w ↔ n ≠ 0x0014 ∧ ∃ value, csrValue s n = some value ∧ w = value.setWidth 16 := by
  unfold csrRead
  split
  · simp_all
  · cases csrValue s n <;> simp_all [@eq_comm _ _ w, raiseTrap]

theorem csrRead_eq_error (s : State) (n : Nat) (e : Trap) :
    csrRead s n = .error e ↔
      (n = 0x0014 ∨ csrValue s n = none) ∧ e = ⟨.csrAccess, BitVec.ofNat 32 n⟩ := by
  unfold csrRead
  split
  · simp_all [raiseTrap_eq_error]
  · cases csrValue s n <;> simp_all [raiseTrap_eq_error]

theorem writeFieldCsr_eq_some (s t : State) (n : Nat) (d : Word32) :
    s.writeFieldCsr n d = some t ↔
      (n = 0 ∧ t = { s with gfPrim := d.setWidth 13, gfValid := false }) ∨
      (n = 1 ∧ t = { s with gfSize := d.setWidth 13, gfValid := false }) ∨
      (n = 2 ∧ t = { s with gfBase := d.setWidth 12, gfValid := false }) := by
  unfold State.writeFieldCsr; split <;> simp_all [eq_comm]

theorem writeFieldCsr_eq_none (s : State) (n : Nat) (d : Word32) :
    s.writeFieldCsr n d = none ↔ 3 ≤ n := by
  unfold State.writeFieldCsr; split <;> simp_all; omega

/-! ### The generator cache (R171) -/

/-- The cache operation changes the cache and its top degree, and nothing else. -/
theorem warmCache_eq (s : State) (d : Nat) :
    s.warmCache d =
      { s with genCache := (s.warmCache d).genCache, genTop := (s.warmCache d).genTop } := by
  unfold State.warmCache; split <;> rfl

theorem warmCache_genTop (s : State) (d : Nat) (h : d < 4096) :
    (s.warmCache d).genTop.toNat = max s.genTop.toNat d := by
  unfold State.warmCache
  split
  · simp [BitVec.toNat_ofNat]; omega
  · omega

theorem genExtend_length (f : GF) (count : Nat) :
    ∀ (k : Nat) (last : Poly), (genExtend f count k last).length = count := by
  induction count with
  | zero => intro k last; rfl
  | succ count ih => intro k last; simp [genExtend, ih]

/-! ### Run states and resets (R226, R250, R251) -/

theorem clear_eq (s : State) :
    s.clear =
      if s.runState = .halted ∨ s.runState = .faulted then
        { s with runState := .idle, cause := 0, epc := 0, einfo := 0 }
      else s := by
  unfold State.clear; cases s.runState <;> simp

theorem start_eq (s : State) :
    s.start = if s.runState = .idle then { s with runState := .run, pc := s.entry } else s := by
  unfold State.start; cases s.runState <;> simp

theorem running_iff (s : State) : s.running = true ↔ s.runState = .run := by simp [State.running]

/-- What a host write can do (R47 to R49). -/
theorem hostWrite_eq_some (s t : State) (h : Word) (d : Word32) :
    s.hostWrite h d = some t ↔
      (h.toNat = 0x8014 ∧ d.getLsbD 2 = true ∧ t = s.softReset) ∨
      (¬(h.toNat = 0x8014 ∧ d.getLsbD 2 = true) ∧ s.runState ≠ .run ∧ s.writeMap h.toNat d = some t) := by
  unfold State.hostWrite
  split
  · next k => simp [k, @eq_comm _ t]
  · next k =>
    have hk : ¬(h.toNat = 0x8014 ∧ d.getLsbD 2 = true ∧ t = s.softReset) :=
      fun x => k ⟨x.1, x.2.1⟩
    rw [or_iff_right hk, and_iff_right k]
    cases hr : s.runState <;> simp [State.running, hr]

/-- The six kinds of host write that complete with the sequencer stopped (R47). -/
theorem writeMap_eq_some (s t : State) (h : Nat) (d : Word32) :
    s.writeMap h d = some t ↔
      (h < 0x1000 ∧ t = s.writeDmem h (d.setWidth 16)) ∨
      (0x1000 ≤ h ∧ h < 0x1400 ∧ t = s.writeImem (h - 0x1000) d) ∨
      (0x4000 ≤ h ∧ h < 0x4010 ∧ t = s.writeX (hostRegister h) (d.setWidth 16)) ∨
      (0x8000 ≤ h ∧ s.hostWriteCsr (h - 0x8000) d = some t) := by
  unfold State.writeMap
  split_ifs <;> constructor <;> intro k
  · exact .inl ⟨by assumption, (Option.some.inj k).symm⟩
  · rcases k with k | k | k | k <;> first | omega | exact congrArg some k.2.symm
  · exact .inr (.inl ⟨by omega, by omega, (Option.some.inj k).symm⟩)
  · rcases k with k | k | k | k <;> first | omega | exact congrArg some k.2.2.symm
  · cases k
  · omega
  · exact .inr (.inr (.inl ⟨by omega, by omega, (Option.some.inj k).symm⟩))
  · rcases k with k | k | k | k <;> first | omega | exact congrArg some k.2.2.symm
  · cases k
  · omega
  · exact .inr (.inr (.inr ⟨by omega, k⟩))
  · rcases k with k | k | k | k <;> first | omega | exact k.2

theorem hostWriteCsr_eq_some (s t : State) (n : Nat) (d : Word32) :
    s.hostWriteCsr n d = some t ↔
      (n = 0x0014 ∧ t = s.writeCtrl d) ∨ (n = 0x0015 ∧ t = { s with entry := d.setWidth 16 }) ∨
      (n ≠ 0x0014 ∧ n ≠ 0x0015 ∧ s.writeFieldCsr n d = some t) := by
  unfold State.hostWriteCsr; split <;> simp_all [@eq_comm _ t]

end Sys2Proof.Machine
end

