-- ==== Sys2Proof/Laws/Memory.lean ====
section
/-! SUPPORT. The laws of word-addressed memory: a read after a write, canonical form, and what
writing a run or applying corrections changes. -/

namespace Sys2Proof.Machine

theorem Memory.lookup_write_same {w : Nat} (m : Memory w) (a : Nat) (b : BitVec w) :
    Memory.lookup (Memory.write m a b) a = some b := by
  induction m with
  | nil => simp [Memory.write, Memory.lookup]
  | cons c rest ih =>
    obtain ⟨k, d⟩ := c
    by_cases h1 : a < k
    · simp [Memory.write, Memory.lookup, h1]
    · by_cases h2 : a = k
      · simp [Memory.write, Memory.lookup, h2]
      · simp [Memory.write, Memory.lookup, h1, h2, Ne.symm h2, ih]

theorem Memory.lookup_write_ne {w : Nat} (m : Memory w) (a i : Nat) (b : BitVec w) (h : i ≠ a) :
    Memory.lookup (Memory.write m a b) i = Memory.lookup m i := by
  induction m with
  | nil => simp [Memory.write, Memory.lookup, Ne.symm h]
  | cons c rest ih =>
    obtain ⟨k, d⟩ := c
    by_cases h1 : a < k
    · simp [Memory.write, Memory.lookup, h1, Ne.symm h]
    · by_cases h2 : a = k
      · subst h2
        simp [Memory.write, Memory.lookup, Ne.symm h]
      · simp only [Memory.write, Memory.lookup, h1, h2, if_false, ih]

theorem Memory.risingFrom_mono {w : Nat} (m : Memory w) {lo hi : Nat} (h : lo ≤ hi)
    (hm : Memory.risingFrom hi m = true) : Memory.risingFrom lo m = true := by
  cases m with
  | nil => rfl
  | cons c rest =>
    simp only [Memory.risingFrom, Bool.and_eq_true, decide_eq_true_eq] at hm ⊢
    exact ⟨by omega, hm.2⟩

theorem Memory.risingFrom_write {w : Nat} (m : Memory w) (a : Nat) (b : BitVec w) :
    ∀ lo, lo ≤ a → Memory.risingFrom lo m = true →
      Memory.risingFrom lo (Memory.write m a b) = true := by
  induction m with
  | nil => intro lo h _; simp [Memory.write, Memory.risingFrom, h]
  | cons c rest ih =>
    obtain ⟨k, d⟩ := c
    intro lo h hm
    simp only [Memory.risingFrom, Bool.and_eq_true, decide_eq_true_eq] at hm
    simp only [Memory.write]
    split
    · simp only [Memory.risingFrom, Bool.and_eq_true, decide_eq_true_eq]
      exact ⟨h, by omega, hm.2⟩
    · split
      · subst_vars
        simp only [Memory.risingFrom, Bool.and_eq_true, decide_eq_true_eq]
        exact ⟨h, hm.2⟩
      · simp only [Memory.risingFrom, Bool.and_eq_true, decide_eq_true_eq]
        exact ⟨hm.1, ih (k + 1) (by omega) hm.2⟩

theorem Memory.mem_write {w : Nat} (m : Memory w) (a : Nat) (b : BitVec w) (c : Nat × BitVec w)
    (h : c ∈ Memory.write m a b) : c = (a, b) ∨ c ∈ m := by
  induction m with
  | nil => simpa [Memory.write] using h
  | cons d rest ih =>
    obtain ⟨k, e⟩ := d
    simp only [Memory.write] at h
    split at h
    · simpa using h
    · split at h
      · rcases List.mem_cons.mp h with h | h
        · exact .inl h
        · exact .inr (List.mem_cons_of_mem _ h)
      · rcases List.mem_cons.mp h with h | h
        · exact .inr (h ▸ List.mem_cons_self)
        · exact (ih h).imp_right (List.mem_cons_of_mem _)

/-- A write inside the space keeps the canonical form. -/
theorem Memory.wf_write {w : Nat} (size : Nat) (m : Memory w) (a : Nat) (b : BitVec w)
    (ha : a < size) (hm : Memory.wf size m = true) :
    Memory.wf size (Memory.write m a b) = true := by
  simp only [Memory.wf, Bool.and_eq_true, List.all_eq_true, decide_eq_true_eq] at hm ⊢
  refine ⟨Memory.risingFrom_write m a b 0 (Nat.zero_le _) hm.1, fun c hc => ?_⟩
  rcases Memory.mem_write m a b c hc with h | h
  · rw [h]; exact ha
  · exact hm.2 c h

@[simp] theorem State.readDmem_writeDmem_same (s : State) (a : Nat) (w : Word) :
    (s.writeDmem a w).readDmem a = w := by
  simp [State.readDmem, Memory.lookup_write_same]

theorem State.readDmem_writeDmem_ne (s : State) (a i : Nat) (w : Word) (h : i ≠ a) :
    (s.writeDmem a w).readDmem i = s.readDmem i := by
  simp [State.readDmem, Memory.lookup_write_ne _ _ _ _ h]

@[simp] theorem State.readImem_writeImem_same (s : State) (a : Nat) (w : Word32) :
    (s.writeImem a w).readImem a = w := by
  simp [State.readImem, Memory.lookup_write_same]

theorem State.readImem_writeImem_ne (s : State) (a i : Nat) (w : Word32) (h : i ≠ a) :
    (s.writeImem a w).readImem i = s.readImem i := by
  simp [State.readImem, Memory.lookup_write_ne _ _ _ _ h]

/-- Two states that differ in DMEM alone. -/
def SameButDmem (s t : State) : Prop := t = { s with dmem := t.dmem }

theorem SameButDmem.refl (s : State) : SameButDmem s s := rfl

theorem SameButDmem.trans {s t u : State} (h : SameButDmem s t) (k : SameButDmem t u) :
    SameButDmem s u := by
  unfold SameButDmem at *
  rw [k, h]

theorem sameButDmem_writeDmem (s : State) (a : Nat) (w : Word) :
    SameButDmem s (s.writeDmem a w) := rfl

/-- Writing a run changes DMEM alone. -/
theorem sameButDmem_writeRun (l : List Word) :
    ∀ (s : State) (a : Nat), SameButDmem s (s.writeRun a l) := by
  induction l with
  | nil => intro s a; rfl
  | cons w rest ih => intro s a; exact (sameButDmem_writeDmem s a w).trans (ih _ _)

/-- A word outside the run is untouched. -/
theorem State.readDmem_writeRun_outside (l : List Word) :
    ∀ (s : State) (a i : Nat), (∀ k, k < l.length → i ≠ a + k) →
      (s.writeRun a l).readDmem i = s.readDmem i := by
  induction l with
  | nil => intro s a i _; rfl
  | cons w rest ih =>
    intro s a i h
    rw [State.writeRun, ih]
    · exact State.readDmem_writeDmem_ne _ _ _ _ (by simpa using h 0 (by simp))
    · intro k hk
      have := h (k + 1) (by simp; omega)
      omega

/-- Word `k` of the run is entry `k` of the list. -/
theorem State.readDmem_writeRun_inside (l : List Word) :
    ∀ (s : State) (a k : Nat) (h : k < l.length), (s.writeRun a l).readDmem (a + k) = l[k] := by
  induction l with
  | nil => intro s a k h; simp at h
  | cons w rest ih =>
    intro s a k h
    cases k with
    | zero =>
      rw [State.writeRun, State.readDmem_writeRun_outside]
      · simp
      · intro k _; omega
    | succ k =>
      have := ih (s.writeDmem a w) (a + 1) k (by simpa using h)
      rw [State.writeRun]
      rw [show a + (k + 1) = a + 1 + k by omega]
      simpa using this

/-- A run inside the space keeps the canonical form of DMEM. -/
theorem wf_writeRun (size : Nat) (l : List Word) :
    ∀ (s : State) (a : Nat), a + l.length ≤ size → Memory.wf size s.dmem = true →
      Memory.wf size (s.writeRun a l).dmem = true := by
  induction l with
  | nil => intro s a _ h; exact h
  | cons w rest ih =>
    intro s a ha h
    simp only [List.length_cons] at ha
    exact ih _ _ (by omega) (Memory.wf_write size _ _ _ (by omega) h)

/-- Corrections change DMEM alone. -/
theorem sameButDmem_rsApply (a0 n : Nat) (locs : List Word) :
    ∀ (mags : List Word) (s : State) (i : Nat), SameButDmem s (s.rsApply a0 n i locs mags).1 := by
  induction locs with
  | nil => intro mags s i; simp [State.rsApply, SameButDmem.refl]
  | cons loc rest ih =>
    intro mags s i
    cases mags with
    | nil => simp [State.rsApply, SameButDmem.refl]
    | cons mag mrest =>
      simp only [State.rsApply]
      split
      · exact SameButDmem.refl s
      · exact (sameButDmem_writeDmem _ _ _).trans (ih _ _ _)

/-- The only trap of the corrections is `RsBadLocation`. -/
theorem rsApply_trap (a0 n : Nat) (locs : List Word) :
    ∀ (mags : List Word) (s : State) (i : Nat) (e : Trap),
      (s.rsApply a0 n i locs mags).2 = some e → e.cause = .rsBadLocation := by
  induction locs with
  | nil => intro mags s i e h; simp [State.rsApply] at h
  | cons loc rest ih =>
    intro mags s i e h
    cases mags with
    | nil => simp [State.rsApply] at h
    | cons mag mrest =>
      simp only [State.rsApply] at h
      split at h
      · simp only [Option.some.injEq] at h
        rw [← h]
      · exact ih _ _ _ _ h

/-- A word that no correction names is untouched. -/
theorem readDmem_rsApply_outside (a0 n : Nat) (locs : List Word) :
    ∀ (mags : List Word) (s : State) (i a : Nat),
      a ∉ locs.map (correctionAddress s.gf a0 n) →
      (s.rsApply a0 n i locs mags).1.readDmem a = s.readDmem a := by
  induction locs with
  | nil => intro mags s i a _; simp [State.rsApply]
  | cons loc rest ih =>
    intro mags s i a h
    simp only [List.map_cons, List.mem_cons, not_or] at h
    cases mags with
    | nil => simp [State.rsApply]
    | cons mag mrest =>
      simp only [State.rsApply]
      split
      · rfl
      · rw [ih _ _ _ _ (by simpa using h.2)]
        exact State.readDmem_writeDmem_ne _ _ _ _ h.1

/-- Corrections inside the space keep the canonical form of DMEM. -/
theorem wf_rsApply (size a0 n : Nat) (hn : 0 < n) (hsize : a0 + n ≤ size) (locs : List Word) :
    ∀ (mags : List Word) (s : State) (i : Nat), Memory.wf size s.dmem = true →
      Memory.wf size (s.rsApply a0 n i locs mags).1.dmem = true := by
  induction locs with
  | nil => intro mags s i h; simpa [State.rsApply] using h
  | cons loc rest ih =>
    intro mags s i h
    cases mags with
    | nil => simpa [State.rsApply] using h
    | cons mag mrest =>
      simp only [State.rsApply]
      split
      · exact h
      · exact ih _ _ _ (Memory.wf_write size _ _ _ (by omega) h)

end Sys2Proof.Machine
end

