-- ==== Sys2Proof/Laws/Effect.lean ====
section
/-! SUPPORT. What an instruction can do, said once: `exec` ends in one of the effects below or in a trap
that writes nothing else. Frames and invariants are case analyses over `Effect`, and unfold no
meaning. -/

namespace Sys2Proof.Machine

/-- The next states an instruction reaches other than by a trap with nothing written. -/
inductive Effect (i : Instr) (s : State) : State → Prop where
  /-- Only the pc moves. -/
  | nothing (h : i = .nop) : Effect i s s.advance
  /-- `HALT`. -/
  | halt (h : i = .halt) : Effect i s { s with runState := .halted }
  /-- A jump, or a branch taken or not. -/
  | transfer (pc target : Word) (h : transferTarget i = some target)
      (k : pc = s.pc + 1 ∨ pc = target) : Effect i s { s with pc := pc }
  /-- One scalar register is written. -/
  | scalar (d : XReg) (w : Word) (h : destX i = some d) : Effect i s (s.writeX d w).advance
  /-- One vector register is written. -/
  | vector (d : VReg) (p : Poly) (h : destV i = [d]) : Effect i s (s.writeV d p).advance
  /-- Two vector registers are written. -/
  | vectors (d a : VReg) (p q : Poly) (h : destV i = [d, a]) :
      Effect i s ((s.writeV d p).writeV a q).advance
  /-- `STW`. -/
  | store (d a : XReg) (offset : Word) (h : i = .stw d a offset)
      (k : effectiveAddress s a offset < 4096) :
      Effect i s (s.writeDmem (effectiveAddress s a offset) (s.readX d)).advance
  /-- `VST`. -/
  | storeRun (d : VReg) (a : XReg) (h : i = .vst d a)
      (k : (s.readX a).toNat + (s.readV d).length ≤ 4096) :
      Effect i s (s.writeRun (s.readX a).toNat (s.readV d)).advance
  /-- `CSRW`. -/
  | fieldCsr (a : XReg) (n : Word) (t : State) (h : i = .csrw a n)
      (k : s.writeFieldCsr n.toNat ((s.readX a).setWidth 32) = some t) : Effect i s t.advance
  /-- `GFINIT`. -/
  | buildField (h : i = .gfinit) (k : gfConfigCheck s.gfPrim.toNat s.gfSize.toNat = .ok ()) :
      Effect i s s.buildField.advance
  /-- `RSGEN`. -/
  | warm (a : XReg) (h : i = .rsgen a) (valid : s.gfValid = true) (k : (s.readX a).toNat < 4096) :
      Effect i s (s.warmCache (s.readX a).toNat).advance
  /-- `PGEN`. -/
  | generator (d : VReg) (a : XReg) (h : i = .pgen d a) (valid : s.gfValid = true)
      (k : (s.readX a).toNat < 4096) :
      Effect i s
        ((s.warmCache (s.readX a).toNat).writeV d (s.genFetch (s.readX a).toNat)).advance
  /-- `RSENC`. -/
  | encode (a b c : XReg) (check : Poly) (h : i = .rsenc a b c) (valid : s.gfValid = true)
      (n1 : (s.readX b).toNat ≠ 0) (ec1 : (s.readX c).toNat ≠ 0)
      (fits : (s.readX a).toNat + ((s.readX b).toNat + (s.readX c).toNat) ≤ 4096)
      (symbols : ∀ w ∈ s.readRun (s.readX a).toNat (s.readX b).toNat, w.toNat < s.gfSize.toNat)
      (k : rsEncode s.gf (s.genFetch (s.readX c).toNat)
        (s.readRun (s.readX a).toNat (s.readX b).toNat) (s.readX c).toNat = .ok check) :
      Effect i s
        ((s.warmCache (s.readX c).toNat).writeRun ((s.readX a).toNat + (s.readX b).toNat)
          check).advance
  /-- `RSCORR` and `RSDEC`: every correction made, and the count written if the instruction has one. -/
  | corrected (a0 n : Nat) (locs mags : List Word)
      (h : plannedCorrections i s = some (a0, n, locs, mags)) (n1 : n ≠ 0) (fits : a0 + n ≤ 4096)
      (k : (s.rsApply a0 n 0 locs mags).2 = none) (t : State)
      (count : t = (s.rsApply a0 n 0 locs mags).1.advance ∨
        ∃ d w, destX i = some d ∧ t = ((s.rsApply a0 n 0 locs mags).1.writeX d w).advance) :
      Effect i s t
  /-- `RSCORR` and `RSDEC`: stopped at a bad location, the corrections before it made. -/
  | partlyCorrected (a0 n : Nat) (locs mags : List Word) (e : Trap)
      (h : plannedCorrections i s = some (a0, n, locs, mags)) (n1 : n ≠ 0) (fits : a0 + n ≤ 4096)
      (k : (s.rsApply a0 n 0 locs mags).2 = some e) :
      Effect i s ((s.rsApply a0 n 0 locs mags).1.trap e)

/-- An instruction that ends by `complete` has its effect or traps. -/
theorem effect_of_complete {i : Instr} {s t : State} {r : Except Trap State}
    (h : complete s r = .next t) (k : ∀ u, r = .ok u → Effect i s u.advance) :
    Effect i s t ∨ ∃ e, t = s.trap e := by
  rcases (complete_eq_next s t r).1 h with ⟨u, hu, rfl⟩ | ⟨e, _, rfl⟩
  · exact .inl (k u hu)
  · exact .inr ⟨e, rfl⟩

/-- A scalar result. -/
theorem effect_scalar {i : Instr} {s u : State} {α : Type} {r : Except Trap α} {d : XReg}
    {value : α → Word} (hd : destX i = some d)
    (h : (r >>= fun a => .ok (s.writeX d (value a))) = .ok u) : Effect i s u.advance := by
  obtain ⟨a, _, ha⟩ := (bind_eq_ok _ _ _).1 h
  cases ha
  exact .scalar d _ hd

/-- A vector result. -/
theorem effect_vector {i : Instr} {s u : State} {α : Type} {r : Except Trap α} {d : VReg}
    {value : α → Poly} (hd : destV i = [d])
    (h : (r >>= fun a => .ok (s.writeV d (value a))) = .ok u) : Effect i s u.advance := by
  obtain ⟨a, _, ha⟩ := (bind_eq_ok _ _ _).1 h
  cases ha
  exact .vector d _ hd

theorem bind_ok_elim {α β : Type} {r : Except Trap α} {f : α → Except Trap β} {b : β} {P : Prop}
    (h : (r >>= f) = .ok b) (k : ∀ a, r = .ok a → f a = .ok b → P) : P := by
  obtain ⟨a, ha, hb⟩ := (bind_eq_ok r f b).1 h
  exact k a ha hb

theorem requireBlock_eq_ok (s : State) (a0 n twoS : Nat) :
    requireBlock s a0 n twoS = .ok () ↔
      s.gfValid = true ∧ n ≠ 0 ∧ a0 + n ≤ 4096 ∧
        (∀ w ∈ s.readRun a0 n, w.toNat < s.gfSize.toNat) ∧ twoS + 1 ≤ 4096 := by
  rw [← requireGf_eq_ok, ← requireRun_eq_ok, ← requireSyms_eq_ok, ← requireLength_eq_ok]
  unfold requireBlock
  by_cases hn : n = 0
  · cases h : requireGf s <;> simp [hn, raiseTrap]
  · cases h : requireGf s <;> cases h2 : requireRun a0 n <;>
      cases h3 : requireSyms s (s.readRun a0 n) <;> simp [hn]

theorem requireNonzero_eq_ok (l : List Word) : requireNonzero l = .ok () ↔ 0 ∉ l := by
  induction l with
  | nil => simp [requireNonzero]
  | cons a l ih =>
    unfold requireNonzero
    split
    · simp_all [raiseTrap]
    · next h =>
      rw [List.mem_cons, not_or, and_iff_right fun k => h k.symm]
      exact ih

theorem requireCorrections_eq_ok (s : State) (locs mags : List Word) (a0 n : Nat) :
    requireCorrections s locs mags a0 n = .ok () ↔
      s.gfValid = true ∧ locs.length = mags.length ∧ n ≠ 0 ∧ a0 + n ≤ 4096 ∧
        (∀ w ∈ locs, w.toNat < s.gfSize.toNat) ∧ (∀ w ∈ mags, w.toNat < s.gfSize.toNat) ∧
        0 ∉ locs := by
  rw [← requireGf_eq_ok, ← requireRun_eq_ok, ← requireSyms_eq_ok, ← requireSyms_eq_ok,
    ← requireNonzero_eq_ok]
  unfold requireCorrections
  by_cases hl : locs.length = mags.length <;> by_cases hn : n = 0
  all_goals
    cases h : requireGf s <;> cases h2 : requireRun a0 n <;> cases h3 : requireSyms s locs <;>
      cases h4 : requireSyms s mags <;> simp [hn, hl, raiseTrap]

/-- What an instruction can do: one of the effects, or a trap that writes nothing but the trap
registers (R8, R228). -/
theorem exec_effect (i : Instr) (s t : State) (h : exec i s = .next t) :
    Effect i s t ∨ ∃ e, t = s.trap e := by
  cases i with
  | nop => cases h; exact .inl (.nothing rfl)
  | halt => cases h; exact .inl (.halt rfl)
  | li d imm => cases h; exact .inl (.scalar d _ rfl)
  | mov d a => cases h; exact .inl (.scalar d _ rfl)
  | add d a b => cases h; exact .inl (.scalar d _ rfl)
  | sub d a b => cases h; exact .inl (.scalar d _ rfl)
  | addi d a imm => cases h; exact .inl (.scalar d _ rfl)
  | jmp target => cases h; exact .inl (.transfer _ target rfl (.inr rfl))
  | beq d a target =>
    cases h; rw [branch_eq]; refine .inl (.transfer _ target rfl ?_); split <;> simp
  | bne d a target =>
    cases h; rw [branch_eq]; refine .inl (.transfer _ target rfl ?_); split <;> simp
  | bltu d a target =>
    cases h; rw [branch_eq]; refine .inl (.transfer _ target rfl ?_); split <;> simp
  | ldw d a offset => exact effect_of_complete h fun u hu => effect_scalar rfl hu
  | stw d a offset =>
    refine effect_of_complete h fun u hu => bind_ok_elim hu fun _ hk ho => ?_
    cases ho
    exact .store d a offset rfl ((requireWord_eq_ok _).1 hk)
  | csrr d csr => exact effect_of_complete h fun u hu => effect_scalar rfl hu
  | csrw a csr =>
    refine effect_of_complete h fun u hu => ?_
    cases hw : s.writeFieldCsr csr.toNat ((s.readX a).setWidth 32) with
    | none => simp [hw] at hu
    | some t => simp only [hw, Except.ok.injEq] at hu; exact hu ▸ .fieldCsr a csr t rfl hw
  | gfinit =>
    refine effect_of_complete h fun u hu => bind_ok_elim hu fun _ hk ho => ?_
    cases ho
    exact .buildField rfl hk
  | gfadd d a b =>
    exact effect_of_complete h fun u hu => bind_ok_elim hu fun _ _ hu => bind_ok_elim hu
      fun _ _ hu => effect_scalar rfl hu
  | gfmul d a b =>
    exact effect_of_complete h fun u hu => bind_ok_elim hu fun _ _ hu => bind_ok_elim hu
      fun _ _ hu => effect_scalar rfl hu
  | gfinv d a =>
    refine effect_of_complete h fun u hu => bind_ok_elim hu fun _ _ hu => bind_ok_elim hu
      fun _ _ hu => ?_
    split at hu
    · simp [raiseTrap] at hu
    · cases hu; exact .scalar d _ rfl
  | gfexp d a =>
    exact effect_of_complete h fun u hu => bind_ok_elim hu fun _ _ hu => effect_scalar rfl hu
  | gflog d a =>
    refine effect_of_complete h fun u hu => bind_ok_elim hu fun _ _ hu => bind_ok_elim hu
      fun _ _ hu => ?_
    split at hu
    · simp [raiseTrap] at hu
    · cases hu; exact .scalar d _ rfl
  | vld d a b => exact effect_of_complete h fun u hu => effect_vector rfl hu
  | vst d a =>
    refine effect_of_complete h fun u hu => bind_ok_elim hu fun _ hk ho => ?_
    cases ho
    exact .storeRun d a rfl ((requireRun_eq_ok _ _).1 hk)
  | vlen d a => cases h; exact .inl (.scalar d _ rfl)
  | vget d a b =>
    refine effect_of_complete h fun u hu => ?_
    split at hu
    · simp at hu
    · cases hu; exact .scalar d _ rfl
  | vmov d a => cases h; exact .inl (.vector d _ rfl)
  | pnorm d a =>
    exact effect_of_complete h fun u hu => bind_ok_elim hu fun _ _ hu => effect_vector rfl hu
  | pmono d a b =>
    exact effect_of_complete h fun u hu => bind_ok_elim hu fun _ _ hu => bind_ok_elim hu
      fun _ _ hu => effect_vector rfl hu
  | pdeg d a =>
    exact effect_of_complete h fun u hu => bind_ok_elim hu fun _ _ hu => effect_scalar rfl hu
  | pcoef d a b =>
    exact effect_of_complete h fun u hu => bind_ok_elim hu fun _ _ hu => effect_scalar rfl hu
  | pisz d a =>
    exact effect_of_complete h fun u hu => bind_ok_elim hu fun _ _ hu => effect_scalar rfl hu
  | padd d a b =>
    exact effect_of_complete h fun u hu => bind_ok_elim hu fun _ _ hu => bind_ok_elim hu
      fun _ _ hu => effect_vector rfl hu
  | pmul d a b =>
    exact effect_of_complete h fun u hu => bind_ok_elim hu fun _ _ hu => bind_ok_elim hu
      fun _ _ hu => bind_ok_elim hu fun _ _ hu => effect_vector rfl hu
  | pscale d a b =>
    exact effect_of_complete h fun u hu => bind_ok_elim hu fun _ _ hu => bind_ok_elim hu
      fun _ _ hu => effect_vector rfl hu
  | pmulm d a b c =>
    exact effect_of_complete h fun u hu => bind_ok_elim hu fun _ _ hu => bind_ok_elim hu
      fun _ _ hu => bind_ok_elim hu fun _ _ hu => effect_vector rfl hu
  | pdiv d a b c =>
    refine effect_of_complete h fun u hu => bind_ok_elim hu fun _ _ hu => bind_ok_elim hu
      fun _ _ hu => bind_ok_elim hu fun _ _ hu => bind_ok_elim hu fun _ _ hu => ?_
    cases hu
    exact .vectors d a _ _ rfl
  | peval d a b =>
    exact effect_of_complete h fun u hu => bind_ok_elim hu fun _ _ hu => bind_ok_elim hu
      fun _ _ hu => effect_scalar rfl hu
  | rsgen a =>
    refine effect_of_complete h fun u hu => bind_ok_elim hu fun _ hv hu => bind_ok_elim hu
      fun _ hl hu => ?_
    cases hu
    exact .warm a rfl ((requireGf_eq_ok s).1 hv) (by have := (requireLength_eq_ok _).1 hl; omega)
  | pgen d a =>
    refine effect_of_complete h fun u hu => bind_ok_elim hu fun _ hv hu => bind_ok_elim hu
      fun _ hl hu => ?_
    cases hu
    exact .generator d a rfl ((requireGf_eq_ok s).1 hv)
      (by have := (requireLength_eq_ok _).1 hl; omega)
  | rsenc a b c =>
    refine effect_of_complete h fun u hu => bind_ok_elim hu fun _ hv hu => ?_
    split at hu
    · simp only [raiseTrap, error_bind] at hu
      split at hu <;> cases hu
    split at hu
    · simp [raiseTrap] at hu
    next hn hec =>
    refine bind_ok_elim hu fun _ hb hu => bind_ok_elim hu fun _ hs hu => bind_ok_elim hu
      fun check hc hu => ?_
    cases hu
    exact .encode a b c check rfl ((requireGf_eq_ok s).1 hv) hn hec ((requireRun_eq_ok _ _).1 hb)
      ((requireSyms_eq_ok _ _).1 hs) hc
  | rssyn d a b c => exact effect_of_complete h fun u hu => effect_vector rfl hu
  | rseuc d a b c =>
    refine effect_of_complete h fun u hu => bind_ok_elim hu fun _ _ hu => bind_ok_elim hu
      fun _ _ hu => bind_ok_elim hu fun _ _ hu => ?_
    cases hu
    exact .vectors d a _ _ rfl
  | rschien d a =>
    exact effect_of_complete h fun u hu => bind_ok_elim hu fun _ _ hu => bind_ok_elim hu
      fun _ _ hu => effect_vector rfl hu
  | rsforn d a b =>
    exact effect_of_complete h fun u hu => bind_ok_elim hu fun _ _ hu => bind_ok_elim hu
      fun _ _ hu => bind_ok_elim hu fun _ _ hu => effect_vector rfl hu
  | rscorr d a b c =>
    simp only [exec, execRscorr] at h
    split at h
    · cases h; exact .inr ⟨_, rfl⟩
    · next hc =>
      obtain ⟨_, _, hn, hf, _⟩ := (requireCorrections_eq_ok _ _ _ _ _).1 hc
      rcases (completeFrom_eq_next _ _).1 h with ⟨hk, rfl⟩ | ⟨e, hk, rfl⟩
      · exact .inl (.corrected _ _ _ _ rfl hn hf hk _ (.inl rfl))
      · exact .inl (.partlyCorrected _ _ _ _ e rfl hn hf hk)
  | rsdec d a b c =>
    simp only [exec, execRsdec] at h
    split at h
    · cases h; exact .inr ⟨_, rfl⟩
    · next locs mags hp =>
      have hb : requireBlock s (s.readX a).toNat (s.readX b).toNat (s.readX c).toNat = .ok () := by
        unfold rsdecPlan at hp; exact bind_ok_elim hp fun _ hb _ => hb
      obtain ⟨_, hn, hf, _⟩ := (requireBlock_eq_ok _ _ _ _).1 hb
      have hq : plannedCorrections (.rsdec d a b c) s =
          some ((s.readX a).toNat, (s.readX b).toNat, locs, mags) := by
        simp [plannedCorrections, hp]
      cases hk : (s.rsApply (s.readX a).toNat (s.readX b).toNat 0 locs mags).2 with
      | none =>
        simp only [withCount, hk] at h
        cases h
        exact .inl (.corrected _ _ _ _ hq hn hf hk _ (.inr ⟨d, _, rfl, rfl⟩))
      | some e =>
        simp only [withCount, hk] at h
        cases h
        exact .inl (.partlyCorrected _ _ _ _ e hq hn hf hk)

end Sys2Proof.Machine
end

