-- ==== Sys2Proof/Laws/MinimalEncoding.lean ====
section
/-! SUPPORT. The small lemmas of the minimal encoder (48_minimal_encoding_reference.md): modes and
costs, the vertex table, latches, symbol choice and padding. -/

namespace Sys2Proof.Machine

/-! ### Modes and costs -/

@[simp] theorem CostModel.endingMode_nil (model : CostModel) (input : EncoderInput) :
    model.endingMode input [] = model.startMode := rfl

@[simp] theorem CostModel.endingMode_cons (model : CostModel) (input : EncoderInput) (e : Edge)
    (prev : List Edge) : model.endingMode input (e :: prev) = model.endSlot input e prev := rfl

@[simp] theorem chainTotal_nil : chainTotal [] = 0 := rfl

@[simp] theorem chainTotal_cons (e : Edge) (prev : List Edge) : chainTotal (e :: prev) = e.total := rfl

@[simp] theorem CostModel.finalUnlatch_ascii (model : CostModel) :
    model.finalUnlatch model.asciiMode = 0 := by simp [CostModel.finalUnlatch]

/-- R203: costs are non-negative, so an edge costs no less than its predecessors. -/
theorem CostModel.chainTotal_le_size (model : CostModel) (input : EncoderInput) (mode i : Nat)
    (len : SegmentLength) (prev : List Edge) : chainTotal prev ≤ model.size input mode i len prev := by
  simp only [CostModel.size]; omega

/-- R208: no latch between equal modes. -/
@[simp] theorem CostModel.latchBytes_self (model : CostModel) (p : Nat) :
    model.latchBytes p p = [] := by simp [CostModel.latchBytes]

@[simp] theorem reconstruct_nil (model : CostModel) (input : EncoderInput) :
    reconstruct model input [] = [] := rfl

@[simp] theorem reconstruct_cons (model : CostModel) (input : EncoderInput) (e : Edge)
    (prev : List Edge) :
    reconstruct model input (e :: prev) =
      reconstruct model input prev ++ model.latchBytes (model.endingMode input prev) e.mode ++
        model.bytes input e := rfl

/-! ### The vertex table -/

@[simp] theorem slotAt_nil (p m : Nat) : slotAt [] p m = [] := rfl

@[simp] theorem slotAt_cons_same (table : SlotTable) (p m : Nat) (chain : List Edge) :
    slotAt (((p, m), chain) :: table) p m = chain := by simp [slotAt]

theorem slotAt_cons_ne (table : SlotTable) (p m q k : Nat) (chain : List Edge)
    (h : ¬(q = p ∧ k = m)) : slotAt (((q, k), chain) :: table) p m = slotAt table p m := by
  simp [slotAt, h]

/-- All `add_edge` can do: leave the table, or file the edge in its own vertex. -/
theorem addEdge_cases (model : CostModel) (input : EncoderInput) (table : SlotTable) (e : Edge)
    (prev : List Edge) :
    addEdge model input table e prev = table ∨
      addEdge model input table e prev =
        ((e.start + e.len, model.endSlot input e prev), e :: prev) :: table := by
  simp only [addEdge]
  split
  · exact .inr rfl
  · split
    · exact .inr rfl
    · exact .inl rfl

/-- R201: an edge ends behind the position it starts at. -/
theorem Edge.start_lt_end (e : Edge) : e.start < e.start + e.len := by
  have := e.len.2
  omega

/-- `add_edge` changes no vertex but the edge's own. -/
theorem slotAt_addEdge_ne (model : CostModel) (input : EncoderInput) (table : SlotTable) (e : Edge)
    (prev : List Edge) (p m : Nat) (h : p ≠ e.start + e.len) :
    slotAt (addEdge model input table e prev) p m = slotAt table p m := by
  rcases addEdge_cases model input table e prev with h' | h'
  · rw [h']
  · rw [h', slotAt_cons_ne _ _ _ _ _ _ fun c => h c.1.symm]

/-- "Every edge strictly increases position" (R201): expanding from `i` leaves every vertex up to `i`
as it was, so the sweep never comes back to a position it has expanded. -/
theorem slotAt_addEdges_of_le (model : CostModel) (input : EncoderInput) (i : Nat)
    (prev : List Edge) (table : SlotTable) (p m : Nat) (h : p ≤ i) :
    slotAt (addEdges model input i prev table) p m = slotAt table p m := by
  simp only [addEdges]
  induction model.candidates input i prev generalizing table with
  | nil => rfl
  | cons c rest ih =>
    rw [List.foldl_cons, ih]
    refine slotAt_addEdge_ne model input table _ prev p m ?_
    have := c.2.2
    simp only
    omega

/-- With no chain at the end of the input, step 5 of R206 finds none. -/
theorem cheapest_eq_nil (model : CostModel) (input : EncoderInput) (table : SlotTable)
    (h : ∀ m, slotAt table input.length m = []) (slots : List Nat) :
    cheapest model input table slots [] = [] := by
  induction slots with
  | nil => rfl
  | cons m rest ih => simp only [cheapest, h m, ih]

/-- R206: an empty input fails, whatever the cost model. -/
theorem minimalPath_empty_input (model : CostModel) (input : EncoderInput) (h : input.length = 0) :
    minimalPath model input = none := by
  have hs : ∀ m, slotAt (sweep model input) input.length m = [] := fun m => by
    simp only [sweep, h, List.range'_zero, List.foldl_nil]
    rw [slotAt_addEdges_of_le _ _ _ _ _ _ _ (Nat.le_refl 0), slotAt_nil]
  simp only [minimalPath, cheapest_eq_nil model input _ hs]

/-! ### Symbol choice and padding (R209) -/

/-- The capacity chosen is that of an allowed symbol that fits, and no allowed symbol that fits is
smaller. -/
theorem symbolCapacity_eq_some {table : List SymbolSize} {hint : ShapeHint} {n c : Nat}
    (h : symbolCapacity table hint n = some c) :
    (∃ symbol ∈ table, hint.allows symbol = true ∧ symbol.capacity = c) ∧ n ≤ c ∧
      ∀ symbol ∈ table, hint.allows symbol = true → n ≤ symbol.capacity → c ≤ symbol.capacity := by
  obtain ⟨hmem, hmin⟩ := List.min?_eq_some_iff.1 h
  obtain ⟨symbol, hs, rfl⟩ := List.mem_map.1 hmem
  obtain ⟨ht, ha⟩ := List.mem_filter.1 hs
  simp only [Bool.and_eq_true, decide_eq_true_eq] at ha
  refine ⟨⟨symbol, ht, ha.1, rfl⟩, ha.2, fun other ho hh hn => ?_⟩
  exact hmin _ (List.mem_map.2 ⟨other, List.mem_filter.2 ⟨ho, by simp [hh, hn]⟩, rfl⟩)

@[simp] theorem padding_length (model : CostModel) (position free : Nat) :
    (padding model position free).length = free := by
  cases free <;> simp [padding]

/-- The padded stream begins with the stream and fills the symbol exactly. -/
theorem padToCapacity_eq_some {model : CostModel} {hint : ShapeHint} {out padded : List Nat}
    (h : padToCapacity model hint out = some padded) :
    ∃ c, symbolCapacity model.capacities hint out.length = some c ∧ padded.length = c ∧
      padded = out ++ padding model out.length (c - out.length) := by
  obtain ⟨c, hc, rfl⟩ := Option.map_eq_some_iff.1 h
  have hle := (symbolCapacity_eq_some hc).2.1
  exact ⟨c, hc, by simp; omega, rfl⟩

end Sys2Proof.Machine
end

