-- ==== Sys2Proof/Laws/PerInstr.lean ====
section
/-! SUPPORT. Facts about every instruction as syntax, one lemma per constructor: its opcode field is its
row's (30_encoding.md R65), and its written form names it alone (R69, R70). -/

namespace Sys2Proof.Laws

open Sys2Proof.Machine

/-- The opcode field of the encoded word is the opcode of the row with the instruction's mnemonic. -/
def OpcodeField.Statement (i : Instr) : Prop :=
  ∃ row ∈ opcodeRows, row.mnemonic = (disassemble i).1 ∧ fieldOp (encode i) = row.op

/-- Assembling what was disassembled gives the instruction back. -/
def WrittenForm.Statement (i : Instr) : Prop :=
  assemble (disassemble i).1 (disassemble i).2 = some i

/-- The top eight bits of a word are its first part. -/
theorem extract_append (op : BitVec 8) (rest : BitVec 24) : (op ++ rest).extractLsb' 24 8 = op := by
  ext i hi
  rw [BitVec.getElem_extractLsb']
  exact (BitVec.getLsbD_append (x := op) (y := rest)).trans (by simp [hi])

theorem fieldOp_wordR (op : BitVec 8) (d a b c : BitVec 4) : fieldOp (wordR op d a b c) = op :=
  extract_append op (d ++ (a ++ (b ++ (c ++ 0#8))))

theorem fieldOp_wordI (op : BitVec 8) (d a : BitVec 4) (imm : Word) :
    fieldOp (wordI op d a imm) = op :=
  extract_append op (d ++ (a ++ imm))

theorem fieldOp_wordN (op : BitVec 8) : fieldOp (wordN op) = op := extract_append op 0#24

theorem OpcodeField.nop : OpcodeField.Statement .nop :=
  ⟨⟨0x01, "NOP", 0xFFFFFF, 0x000000, false⟩, by decide, rfl, fieldOp_wordN ..⟩

theorem OpcodeField.halt : OpcodeField.Statement .halt :=
  ⟨⟨0x02, "HALT", 0xFFFFFF, 0x000000, false⟩, by decide, rfl, fieldOp_wordN ..⟩

theorem OpcodeField.li (d : XReg) (imm : Word) : OpcodeField.Statement (.li d imm) :=
  ⟨⟨0x03, "LI", 0x0F0000, 0x000000, false⟩, by decide, rfl, fieldOp_wordI ..⟩

theorem OpcodeField.mov (d a : XReg) : OpcodeField.Statement (.mov d a) :=
  ⟨⟨0x04, "MOV", 0x00FFFF, 0x000000, false⟩, by decide, rfl, fieldOp_wordR ..⟩

theorem OpcodeField.add (d a b : XReg) : OpcodeField.Statement (.add d a b) :=
  ⟨⟨0x05, "ADD", 0x000FFF, 0x000000, false⟩, by decide, rfl, fieldOp_wordR ..⟩

theorem OpcodeField.sub (d a b : XReg) : OpcodeField.Statement (.sub d a b) :=
  ⟨⟨0x06, "SUB", 0x000FFF, 0x000000, false⟩, by decide, rfl, fieldOp_wordR ..⟩

theorem OpcodeField.addi (d a : XReg) (imm : Word) : OpcodeField.Statement (.addi d a imm) :=
  ⟨⟨0x07, "ADDI", 0x000000, 0x000000, false⟩, by decide, rfl, fieldOp_wordI ..⟩

theorem OpcodeField.jmp (target : Word) : OpcodeField.Statement (.jmp target) :=
  ⟨⟨0x08, "JMP", 0xFF0000, 0x000000, false⟩, by decide, rfl, fieldOp_wordI ..⟩

theorem OpcodeField.beq (d a : XReg) (target : Word) : OpcodeField.Statement (.beq d a target) :=
  ⟨⟨0x09, "BEQ", 0x000000, 0x000000, false⟩, by decide, rfl, fieldOp_wordI ..⟩

theorem OpcodeField.bne (d a : XReg) (target : Word) : OpcodeField.Statement (.bne d a target) :=
  ⟨⟨0x0A, "BNE", 0x000000, 0x000000, false⟩, by decide, rfl, fieldOp_wordI ..⟩

theorem OpcodeField.bltu (d a : XReg) (target : Word) : OpcodeField.Statement (.bltu d a target) :=
  ⟨⟨0x0B, "BLTU", 0x000000, 0x000000, false⟩, by decide, rfl, fieldOp_wordI ..⟩

theorem OpcodeField.ldw (d a : XReg) (offset : Word) : OpcodeField.Statement (.ldw d a offset) :=
  ⟨⟨0x0C, "LDW", 0x000000, 0x000000, false⟩, by decide, rfl, fieldOp_wordI ..⟩

theorem OpcodeField.stw (d a : XReg) (offset : Word) : OpcodeField.Statement (.stw d a offset) :=
  ⟨⟨0x0D, "STW", 0x000000, 0x000000, false⟩, by decide, rfl, fieldOp_wordI ..⟩

theorem OpcodeField.csrr (d : XReg) (csr : Word) : OpcodeField.Statement (.csrr d csr) :=
  ⟨⟨0x0E, "CSRR", 0x0F0000, 0x000000, false⟩, by decide, rfl, fieldOp_wordI ..⟩

theorem OpcodeField.csrw (a : XReg) (csr : Word) : OpcodeField.Statement (.csrw a csr) :=
  ⟨⟨0x0F, "CSRW", 0xF00000, 0x000000, false⟩, by decide, rfl, fieldOp_wordI ..⟩

theorem OpcodeField.gfinit : OpcodeField.Statement .gfinit :=
  ⟨⟨0x10, "GFINIT", 0xFFFFFF, 0x000000, false⟩, by decide, rfl, fieldOp_wordN ..⟩

theorem OpcodeField.gfadd (d a b : XReg) : OpcodeField.Statement (.gfadd d a b) :=
  ⟨⟨0x11, "GFADD", 0x000FFF, 0x000000, false⟩, by decide, rfl, fieldOp_wordR ..⟩

theorem OpcodeField.gfmul (d a b : XReg) : OpcodeField.Statement (.gfmul d a b) :=
  ⟨⟨0x12, "GFMUL", 0x000FFF, 0x000000, false⟩, by decide, rfl, fieldOp_wordR ..⟩

theorem OpcodeField.gfinv (d a : XReg) : OpcodeField.Statement (.gfinv d a) :=
  ⟨⟨0x13, "GFINV", 0x00FFFF, 0x000000, false⟩, by decide, rfl, fieldOp_wordR ..⟩

theorem OpcodeField.gfexp (d a : XReg) : OpcodeField.Statement (.gfexp d a) :=
  ⟨⟨0x14, "GFEXP", 0x00FFFF, 0x000000, false⟩, by decide, rfl, fieldOp_wordR ..⟩

theorem OpcodeField.gflog (d a : XReg) : OpcodeField.Statement (.gflog d a) :=
  ⟨⟨0x15, "GFLOG", 0x00FFFF, 0x000000, false⟩, by decide, rfl, fieldOp_wordR ..⟩

theorem OpcodeField.vld (d : VReg) (a b : XReg) : OpcodeField.Statement (.vld d a b) :=
  ⟨⟨0x20, "VLD", 0x000FFF, 0x800000, false⟩, by decide, rfl, fieldOp_wordR ..⟩

theorem OpcodeField.vst (d : VReg) (a : XReg) : OpcodeField.Statement (.vst d a) :=
  ⟨⟨0x21, "VST", 0x00FFFF, 0x800000, false⟩, by decide, rfl, fieldOp_wordR ..⟩

theorem OpcodeField.vlen (d : XReg) (a : VReg) : OpcodeField.Statement (.vlen d a) :=
  ⟨⟨0x22, "VLEN", 0x00FFFF, 0x080000, false⟩, by decide, rfl, fieldOp_wordR ..⟩

theorem OpcodeField.vget (d : XReg) (a : VReg) (b : XReg) : OpcodeField.Statement (.vget d a b) :=
  ⟨⟨0x23, "VGET", 0x000FFF, 0x080000, false⟩, by decide, rfl, fieldOp_wordR ..⟩

theorem OpcodeField.vmov (d a : VReg) : OpcodeField.Statement (.vmov d a) :=
  ⟨⟨0x24, "VMOV", 0x00FFFF, 0x880000, false⟩, by decide, rfl, fieldOp_wordR ..⟩

theorem OpcodeField.pnorm (d a : VReg) : OpcodeField.Statement (.pnorm d a) :=
  ⟨⟨0x25, "PNORM", 0x00FFFF, 0x880000, false⟩, by decide, rfl, fieldOp_wordR ..⟩

theorem OpcodeField.pmono (d : VReg) (a b : XReg) : OpcodeField.Statement (.pmono d a b) :=
  ⟨⟨0x26, "PMONO", 0x000FFF, 0x800000, false⟩, by decide, rfl, fieldOp_wordR ..⟩

theorem OpcodeField.pdeg (d : XReg) (a : VReg) : OpcodeField.Statement (.pdeg d a) :=
  ⟨⟨0x27, "PDEG", 0x00FFFF, 0x080000, false⟩, by decide, rfl, fieldOp_wordR ..⟩

theorem OpcodeField.pcoef (d : XReg) (a : VReg) (b : XReg) : OpcodeField.Statement (.pcoef d a b) :=
  ⟨⟨0x28, "PCOEF", 0x000FFF, 0x080000, false⟩, by decide, rfl, fieldOp_wordR ..⟩

theorem OpcodeField.pisz (d : XReg) (a : VReg) : OpcodeField.Statement (.pisz d a) :=
  ⟨⟨0x29, "PISZ", 0x00FFFF, 0x080000, false⟩, by decide, rfl, fieldOp_wordR ..⟩

theorem OpcodeField.padd (d a b : VReg) : OpcodeField.Statement (.padd d a b) :=
  ⟨⟨0x2A, "PADD", 0x000FFF, 0x888000, false⟩, by decide, rfl, fieldOp_wordR ..⟩

theorem OpcodeField.pmul (d a b : VReg) : OpcodeField.Statement (.pmul d a b) :=
  ⟨⟨0x2B, "PMUL", 0x000FFF, 0x888000, false⟩, by decide, rfl, fieldOp_wordR ..⟩

theorem OpcodeField.pscale (d a : VReg) (b : XReg) : OpcodeField.Statement (.pscale d a b) :=
  ⟨⟨0x2C, "PSCALE", 0x000FFF, 0x880000, false⟩, by decide, rfl, fieldOp_wordR ..⟩

theorem OpcodeField.pmulm (d a : VReg) (b c : XReg) : OpcodeField.Statement (.pmulm d a b c) :=
  ⟨⟨0x2D, "PMULM", 0x0000FF, 0x880000, false⟩, by decide, rfl, fieldOp_wordR ..⟩

theorem OpcodeField.pdiv (d a b c : VReg) : OpcodeField.Statement (.pdiv d a b c) :=
  ⟨⟨0x2E, "PDIV", 0x0000FF, 0x888800, true⟩, by decide, rfl, fieldOp_wordR ..⟩

theorem OpcodeField.peval (d : XReg) (a : VReg) (b : XReg) : OpcodeField.Statement (.peval d a b) :=
  ⟨⟨0x2F, "PEVAL", 0x000FFF, 0x080000, false⟩, by decide, rfl, fieldOp_wordR ..⟩

theorem OpcodeField.rsgen (a : XReg) : OpcodeField.Statement (.rsgen a) :=
  ⟨⟨0x30, "RSGEN", 0xF0FFFF, 0x000000, false⟩, by decide, rfl, fieldOp_wordR ..⟩

theorem OpcodeField.pgen (d : VReg) (a : XReg) : OpcodeField.Statement (.pgen d a) :=
  ⟨⟨0x31, "PGEN", 0x00FFFF, 0x800000, false⟩, by decide, rfl, fieldOp_wordR ..⟩

theorem OpcodeField.rsenc (a b c : XReg) : OpcodeField.Statement (.rsenc a b c) :=
  ⟨⟨0x32, "RSENC", 0xF000FF, 0x000000, false⟩, by decide, rfl, fieldOp_wordR ..⟩

theorem OpcodeField.rssyn (d : VReg) (a b c : XReg) : OpcodeField.Statement (.rssyn d a b c) :=
  ⟨⟨0x40, "RSSYN", 0x0000FF, 0x800000, false⟩, by decide, rfl, fieldOp_wordR ..⟩

theorem OpcodeField.rseuc (d a b : VReg) (c : XReg) : OpcodeField.Statement (.rseuc d a b c) :=
  ⟨⟨0x41, "RSEUC", 0x0000FF, 0x888000, true⟩, by decide, rfl, fieldOp_wordR ..⟩

theorem OpcodeField.rschien (d a : VReg) : OpcodeField.Statement (.rschien d a) :=
  ⟨⟨0x42, "RSCHIEN", 0x00FFFF, 0x880000, false⟩, by decide, rfl, fieldOp_wordR ..⟩

theorem OpcodeField.rsforn (d a b : VReg) : OpcodeField.Statement (.rsforn d a b) :=
  ⟨⟨0x43, "RSFORN", 0x000FFF, 0x888000, false⟩, by decide, rfl, fieldOp_wordR ..⟩

theorem OpcodeField.rscorr (d a : VReg) (b c : XReg) : OpcodeField.Statement (.rscorr d a b c) :=
  ⟨⟨0x44, "RSCORR", 0x0000FF, 0x880000, false⟩, by decide, rfl, fieldOp_wordR ..⟩

theorem OpcodeField.rsdec (d a b c : XReg) : OpcodeField.Statement (.rsdec d a b c) :=
  ⟨⟨0x45, "RSDEC", 0x0000FF, 0x000000, false⟩, by decide, rfl, fieldOp_wordR ..⟩

theorem WrittenForm.nop : WrittenForm.Statement .nop := rfl

theorem WrittenForm.halt : WrittenForm.Statement .halt := rfl

theorem WrittenForm.li (d : XReg) (imm : Word) : WrittenForm.Statement (.li d imm) := rfl

theorem WrittenForm.mov (d a : XReg) : WrittenForm.Statement (.mov d a) := rfl

theorem WrittenForm.add (d a b : XReg) : WrittenForm.Statement (.add d a b) := rfl

theorem WrittenForm.sub (d a b : XReg) : WrittenForm.Statement (.sub d a b) := rfl

theorem WrittenForm.addi (d a : XReg) (imm : Word) : WrittenForm.Statement (.addi d a imm) := rfl

theorem WrittenForm.jmp (target : Word) : WrittenForm.Statement (.jmp target) := rfl

theorem WrittenForm.beq (d a : XReg) (target : Word) : WrittenForm.Statement (.beq d a target) := rfl

theorem WrittenForm.bne (d a : XReg) (target : Word) : WrittenForm.Statement (.bne d a target) := rfl

theorem WrittenForm.bltu (d a : XReg) (target : Word) : WrittenForm.Statement (.bltu d a target) := rfl

theorem WrittenForm.ldw (d a : XReg) (offset : Word) : WrittenForm.Statement (.ldw d a offset) := rfl

theorem WrittenForm.stw (d a : XReg) (offset : Word) : WrittenForm.Statement (.stw d a offset) := rfl

theorem WrittenForm.csrr (d : XReg) (csr : Word) : WrittenForm.Statement (.csrr d csr) := rfl

theorem WrittenForm.csrw (a : XReg) (csr : Word) : WrittenForm.Statement (.csrw a csr) := rfl

theorem WrittenForm.gfinit : WrittenForm.Statement .gfinit := rfl

theorem WrittenForm.gfadd (d a b : XReg) : WrittenForm.Statement (.gfadd d a b) := rfl

theorem WrittenForm.gfmul (d a b : XReg) : WrittenForm.Statement (.gfmul d a b) := rfl

theorem WrittenForm.gfinv (d a : XReg) : WrittenForm.Statement (.gfinv d a) := rfl

theorem WrittenForm.gfexp (d a : XReg) : WrittenForm.Statement (.gfexp d a) := rfl

theorem WrittenForm.gflog (d a : XReg) : WrittenForm.Statement (.gflog d a) := rfl

theorem WrittenForm.vld (d : VReg) (a b : XReg) : WrittenForm.Statement (.vld d a b) := rfl

theorem WrittenForm.vst (d : VReg) (a : XReg) : WrittenForm.Statement (.vst d a) := rfl

theorem WrittenForm.vlen (d : XReg) (a : VReg) : WrittenForm.Statement (.vlen d a) := rfl

theorem WrittenForm.vget (d : XReg) (a : VReg) (b : XReg) : WrittenForm.Statement (.vget d a b) := rfl

theorem WrittenForm.vmov (d a : VReg) : WrittenForm.Statement (.vmov d a) := rfl

theorem WrittenForm.pnorm (d a : VReg) : WrittenForm.Statement (.pnorm d a) := rfl

theorem WrittenForm.pmono (d : VReg) (a b : XReg) : WrittenForm.Statement (.pmono d a b) := rfl

theorem WrittenForm.pdeg (d : XReg) (a : VReg) : WrittenForm.Statement (.pdeg d a) := rfl

theorem WrittenForm.pcoef (d : XReg) (a : VReg) (b : XReg) : WrittenForm.Statement (.pcoef d a b) := rfl

theorem WrittenForm.pisz (d : XReg) (a : VReg) : WrittenForm.Statement (.pisz d a) := rfl

theorem WrittenForm.padd (d a b : VReg) : WrittenForm.Statement (.padd d a b) := rfl

theorem WrittenForm.pmul (d a b : VReg) : WrittenForm.Statement (.pmul d a b) := rfl

theorem WrittenForm.pscale (d a : VReg) (b : XReg) : WrittenForm.Statement (.pscale d a b) := rfl

theorem WrittenForm.pmulm (d a : VReg) (b c : XReg) : WrittenForm.Statement (.pmulm d a b c) := rfl

theorem WrittenForm.pdiv (d a b c : VReg) : WrittenForm.Statement (.pdiv d a b c) := rfl

theorem WrittenForm.peval (d : XReg) (a : VReg) (b : XReg) : WrittenForm.Statement (.peval d a b) := rfl

theorem WrittenForm.rsgen (a : XReg) : WrittenForm.Statement (.rsgen a) := rfl

theorem WrittenForm.pgen (d : VReg) (a : XReg) : WrittenForm.Statement (.pgen d a) := rfl

theorem WrittenForm.rsenc (a b c : XReg) : WrittenForm.Statement (.rsenc a b c) := rfl

theorem WrittenForm.rssyn (d : VReg) (a b c : XReg) : WrittenForm.Statement (.rssyn d a b c) := rfl

theorem WrittenForm.rseuc (d a b : VReg) (c : XReg) : WrittenForm.Statement (.rseuc d a b c) := rfl

theorem WrittenForm.rschien (d a : VReg) : WrittenForm.Statement (.rschien d a) := rfl

theorem WrittenForm.rsforn (d a b : VReg) : WrittenForm.Statement (.rsforn d a b) := rfl

theorem WrittenForm.rscorr (d a : VReg) (b c : XReg) : WrittenForm.Statement (.rscorr d a b c) := rfl

theorem WrittenForm.rsdec (d a b c : XReg) : WrittenForm.Statement (.rsdec d a b c) := rfl

end Sys2Proof.Laws
end

