-- ==== Sys2Proof/Tests/Slice0.lean ====
section
/-! SUPPORT. The model's own tests: the well-formedness smoke, a word written out for every constructor
(30_encoding.md R65, 95_test_vectors.md), one or two one-step tests for each instruction with the
expected results of the rules' examples and of the tables A, B, V, E and D4 of 95_test_vectors.md,
the host port and resets (tables H1 to H5), and for every obligation with hypotheses a state that
meets them. -/

namespace Sys2Proof.Tests
open Sys2Proof.Machine

/-! ### Helpers -/

/-- A running machine at pc 10, no field built. -/
def start : State := { State.reset with runState := .run, pc := 10 }

/-- The same with the field F16 (prim 0x13, size 16, base 1) built. -/
def f16 : State := { start with gfPrim := 0x13, gfSize := 16, gfBase := 1 }.buildField

/-- A = 3x^3 + 7x + 1 of 42_gf_poly.md. -/
def polyA : Poly := [3, 0, 7, 1]

/-- B = 5x + 2 of 42_gf_poly.md. -/
def polyB : Poly := [5, 2]

/-- Three address, length, parameter registers for the block instructions. -/
def regs (s : State) (a b c : Word) : State := ((s.writeX 2 a).writeX 3 b).writeX 4 c

/-- The codeword C of 44_rs_decoder.md with an error in its first word, and the block registers. -/
def received : State := (regs f16 0 7 4).writeRun 0 [0, 2, 3, 2, 12, 7, 13]

/-- The state after one step on the word `w` at the pc. -/
def ran (w : Word32) (s : State) : State :=
  match step (s.writeImem s.pc.toNat w) with
  | .next t => t
  | _ => State.reset

/-- The word decodes to the instruction. -/
def reads (w : Word32) (i : Instr) : Bool :=
  match decode w with
  | .ok j => j == i
  | .error _ => false

/-- The word is illegal for this reason. -/
def rejects (w : Word32) (e : DecodeError) : Bool :=
  match decode w with
  | .ok _ => false
  | .error d => d == e

/-- The trap was taken at pc 10 and nothing but the trap registers changed. -/
def trapped (s t : State) (code : BitVec 5) (info : Word32) : Bool :=
  t.runState == .faulted && t.cause == code && t.einfo == info && t.epc == 10 && t.pc == 10 &&
    t.x == s.x && t.v == s.v && t.dmem == s.dmem && t.genTop == s.genTop

/-! ### Well-formedness smoke (30_encoding.md R63) -/

theorem test_pdiv_same_destinations_ill_formed : (Instr.pdiv 3 3 0 1).wellFormed = false := by decide
theorem test_rseuc_same_destinations_ill_formed : (Instr.rseuc 7 7 0 1).wellFormed = false := by decide
theorem test_pdiv_shared_source_well_formed : (Instr.pdiv 0 1 0 1).wellFormed = true := by decide
theorem test_padd_same_register_well_formed : (Instr.padd 2 2 2).wellFormed = true := by decide

/-! ### Decoding: every constructor from a word written out from R61 and R65 -/

theorem test_decode_control :
    reads 0x01000000 .nop ∧
    reads 0x02000000 .halt ∧
    reads 0x03100013 (.li 1 19) ∧
    reads 0x04210000 (.mov 2 1) ∧
    reads 0x05532000 (.add 5 3 2) ∧
    reads 0x06532000 (.sub 5 3 2) ∧
    reads 0x0744FFFF (.addi 4 4 0xFFFF) ∧
    reads 0x0800000B (.jmp 11) ∧
    reads 0x0959001D (.beq 5 9 29) ∧
    reads 0x0A67000F (.bne 6 7 15) ∧
    reads 0x0B23000B (.bltu 2 3 11) ∧
    reads 0x0C500064 (.ldw 5 0 100) ∧
    reads 0x0D520000 (.stw 5 2 0) ∧
    reads 0x0E500004 (.csrr 5 4) ∧
    reads 0x0F010000 (.csrw 1 0) := by
  decide

theorem test_encode_control :
    encode .nop = 0x01000000 ∧
    encode .halt = 0x02000000 ∧
    encode (.li 1 19) = 0x03100013 ∧
    encode (.mov 2 1) = 0x04210000 ∧
    encode (.add 5 3 2) = 0x05532000 ∧
    encode (.sub 5 3 2) = 0x06532000 ∧
    encode (.addi 4 4 0xFFFF) = 0x0744FFFF ∧
    encode (.jmp 11) = 0x0800000B ∧
    encode (.beq 5 9 29) = 0x0959001D ∧
    encode (.bne 6 7 15) = 0x0A67000F ∧
    encode (.bltu 2 3 11) = 0x0B23000B ∧
    encode (.ldw 5 0 100) = 0x0C500064 ∧
    encode (.stw 5 2 0) = 0x0D520000 ∧
    encode (.csrr 5 4) = 0x0E500004 ∧
    encode (.csrw 1 0) = 0x0F010000 := by
  decide

theorem test_decode_field :
    reads 0x10000000 .gfinit ∧
    reads 0x11312000 (.gfadd 3 1 2) ∧
    reads 0x12625000 (.gfmul 6 2 5) ∧
    reads 0x13520000 (.gfinv 5 2) ∧
    reads 0x14650000 (.gfexp 6 5) ∧
    reads 0x15210000 (.gflog 2 1) := by
  decide

theorem test_encode_field :
    encode .gfinit = 0x10000000 ∧
    encode (.gfadd 3 1 2) = 0x11312000 ∧
    encode (.gfmul 6 2 5) = 0x12625000 ∧
    encode (.gfinv 5 2) = 0x13520000 ∧
    encode (.gfexp 6 5) = 0x14650000 ∧
    encode (.gflog 2 1) = 0x15210000 := by
  decide

theorem test_decode_vector :
    reads 0x20023000 (.vld 0 2 3) ∧
    reads 0x21080000 (.vst 0 8) ∧
    reads 0x22630000 (.vlen 6 3) ∧
    reads 0x23102000 (.vget 1 0 2) ∧
    reads 0x24100000 (.vmov 1 0) ∧
    reads 0x25100000 (.pnorm 1 0) ∧
    reads 0x260A2000 (.pmono 0 10 2) ∧
    reads 0x27100000 (.pdeg 1 0) ∧
    reads 0x28102000 (.pcoef 1 0 2) ∧
    reads 0x29740000 (.pisz 7 4) ∧
    reads 0x2A201000 (.padd 2 0 1) ∧
    reads 0x2B201000 (.pmul 2 0 1) ∧
    reads 0x2C102000 (.pscale 1 0 2) ∧
    reads 0x2D102300 (.pmulm 1 0 2 3) ∧
    reads 0x2E675000 (.pdiv 6 7 5 0) ∧
    reads 0x2F906000 (.peval 9 0 6) := by
  decide

theorem test_encode_vector :
    encode (.vld 0 2 3) = 0x20023000 ∧
    encode (.vst 0 8) = 0x21080000 ∧
    encode (.vlen 6 3) = 0x22630000 ∧
    encode (.vget 1 0 2) = 0x23102000 ∧
    encode (.vmov 1 0) = 0x24100000 ∧
    encode (.pnorm 1 0) = 0x25100000 ∧
    encode (.pmono 0 10 2) = 0x260A2000 ∧
    encode (.pdeg 1 0) = 0x27100000 ∧
    encode (.pcoef 1 0 2) = 0x28102000 ∧
    encode (.pisz 7 4) = 0x29740000 ∧
    encode (.padd 2 0 1) = 0x2A201000 ∧
    encode (.pmul 2 0 1) = 0x2B201000 ∧
    encode (.pscale 1 0 2) = 0x2C102000 ∧
    encode (.pmulm 1 0 2 3) = 0x2D102300 ∧
    encode (.pdiv 6 7 5 0) = 0x2E675000 ∧
    encode (.peval 9 0 6) = 0x2F906000 := by
  decide

theorem test_decode_encoder :
    reads 0x30040000 (.rsgen 4) ∧
    reads 0x31340000 (.pgen 3 4) ∧
    reads 0x32023400 (.rsenc 2 3 4) := by
  decide

theorem test_encode_encoder :
    encode (.rsgen 4) = 0x30040000 ∧
    encode (.pgen 3 4) = 0x31340000 ∧
    encode (.rsenc 2 3 4) = 0x32023400 := by
  decide

theorem test_decode_decoder :
    reads 0x40023400 (.rssyn 0 2 3 4) ∧
    reads 0x41120400 (.rseuc 1 2 0 4) ∧
    reads 0x42310000 (.rschien 3 1) ∧
    reads 0x43423000 (.rsforn 4 2 3) ∧
    reads 0x44342300 (.rscorr 3 4 2 3) ∧
    reads 0x45523400 (.rsdec 5 2 3 4) := by
  decide

theorem test_encode_decoder :
    encode (.rssyn 0 2 3 4) = 0x40023400 ∧
    encode (.rseuc 1 2 0 4) = 0x41120400 ∧
    encode (.rschien 3 1) = 0x42310000 ∧
    encode (.rsforn 4 2 3) = 0x43423000 ∧
    encode (.rscorr 3 4 2 3) = 0x44342300 ∧
    encode (.rsdec 5 2 3 4) = 0x45523400 := by
  decide

/-- Extreme operands: every field all ones where it may be. -/
theorem test_decode_extremes :
    reads 0x07FFFFFF (.addi 15 15 0xFFFF) ∧ reads 0x2D77FF00 (.pmulm 7 7 15 15) ∧
    reads 0x2E677700 (.pdiv 6 7 7 7) ∧ reads 0x45FFFF00 (.rsdec 15 15 15 15) := by decide

/-- R67 and the illegal words of 95_test_vectors.md, by kind. -/
theorem test_illegal_words :
    rejects 0x00000000 .noSuchOpcode ∧ rejects 0xFFFFFFFF .noSuchOpcode ∧
    rejects 0x16000000 .noSuchOpcode ∧ rejects 0x33000000 .noSuchOpcode ∧
    rejects 0x46000000 .noSuchOpcode ∧ rejects 0x01000001 .unusedFieldSet ∧
    rejects 0x04210100 .unusedFieldSet ∧ rejects 0x12625100 .unusedFieldSet ∧
    rejects 0x08100000 .unusedFieldSet ∧ rejects 0x0F110000 .unusedFieldSet ∧
    rejects 0x30140000 .unusedFieldSet ∧ rejects 0x32123400 .unusedFieldSet ∧
    rejects 0x2A812000 .vectorFieldOutOfRange ∧ rejects 0x22180000 .vectorFieldOutOfRange ∧
    rejects 0x2E001200 .sameDestinations ∧ rejects 0x41331400 .sameDestinations := by decide

/-- No two rows of the opcode map match one word. -/
theorem test_rows_disjoint : opcodeRows.Pairwise (fun p q => p.op ≠ q.op) := by decide

theorem test_rows_count : opcodeRows.length = 46 := by decide

/-- The host's entry to the decoder, and the word placed for the next step. -/
theorem test_decode_table_word :
    decodeTableWord 32 0x12625000 = some (.gfmul 6 2 5) ∧ decodeTableWord 32 0 = none := by decide

theorem test_with_fetch_word :
    ∃ t, step (State.reset.withFetchWord 32 0x03100013) = .next t ∧ t.readX 1 = 19 ∧ t.pc = 1 :=
  ⟨_, rfl, by decide, by decide⟩

/-! ### Sequencer, integer, memory and CSR instructions (table A; the rules' examples) -/

theorem test_nop : (ran 0x01000000 start).pc = 11 ∧ (ran 0x01000000 start).x = start.x := by decide

theorem test_halt : (ran 0x02000000 start).runState = .halted ∧ (ran 0x02000000 start).pc = 10 := by decide

theorem test_li : (ran 0x0310FFFF start).readX 1 = 65535 := by decide

theorem test_mov : (ran 0x04210000 (start.writeX 1 0x1234)).readX 2 = 0x1234 := by decide

theorem test_add_wraps : (ran 0x05312000 ((start.writeX 1 0xFFFF).writeX 2 2)).readX 3 = 1 := by decide

theorem test_add_into_source : (ran 0x05111000 (start.writeX 1 5)).readX 1 = 10 := by decide

theorem test_sub_borrows : (ran 0x06312000 ((start.writeX 1 3).writeX 2 5)).readX 3 = 0xFFFE := by decide

theorem test_addi_minus_one : (ran 0x0744FFFF (start.writeX 4 7)).readX 4 = 6 := by decide

theorem test_jmp_outside_imem : (ran 0x08000400 start).pc = 1024 ∧ (ran 0x08000400 start).runState = .run := by decide

theorem test_beq : (ran 0x09120003 ((start.writeX 1 4).writeX 2 4)).pc = 3 ∧
    (ran 0x09120003 ((start.writeX 1 4).writeX 2 5)).pc = 11 := by decide

theorem test_bne : (ran 0x0A120003 ((start.writeX 1 4).writeX 2 5)).pc = 3 ∧
    (ran 0x0A120003 ((start.writeX 1 4).writeX 2 4)).pc = 11 := by decide

theorem test_bltu_unsigned : (ran 0x0B120003 ((start.writeX 1 1).writeX 2 0xFFFF)).pc = 3 ∧
    (ran 0x0B120003 ((start.writeX 1 0xFFFF).writeX 2 1)).pc = 11 := by decide

theorem test_ldw_wraps : (ran 0x0C520002 ((start.writeX 2 0xFFFF).writeDmem 1 77)).readX 5 = 77 := by decide

theorem test_ldw_out_of_bounds : trapped (start.writeX 2 4000) (ran 0x0C520060 (start.writeX 2 4000)) 3 4096 := by decide

theorem test_stw : (ran 0x0D520000 ((start.writeX 2 3).writeX 5 14)).readDmem 3 = 14 := by decide

theorem test_stw_out_of_bounds : trapped (start.writeX 2 4096) (ran 0x0D520000 (start.writeX 2 4096)) 3 4096 := by decide

theorem test_csrr : (ran 0x0E500000 { start with gfPrim := 0x13 }).readX 5 = 19 ∧
    (ran 0x0E500010 start).readX 5 = 1 ∧ (ran 0x0E500016 start).readX 5 = 10 := by decide

theorem test_csrr_ctrl_traps : trapped start (ran 0x0E500014 start) 4 20 ∧ trapped start (ran 0x0E500005 start) 4 5 := by decide

theorem test_csrw : (ran 0x0F010001 (start.writeX 1 0xFFFF)).gfSize = 8191 ∧
    (ran 0x0F010000 (f16.writeX 1 0x13)).gfValid = false := by decide

theorem test_csrw_read_only_traps : trapped start (ran 0x0F010004 start) 4 4 := by decide

/-! ### Field scalar instructions (table B, table T8) -/

/-- R116's example. -/
theorem test_gfinit : (ran 0x10000000 { start with gfPrim := 0x13, gfSize := 16, gfBase := 1 }).expTable =
    [1, 2, 4, 8, 3, 6, 12, 11, 5, 10, 7, 14, 15, 13, 9, 1] := by decide

theorem test_gfinit_sub_codes : trapped start (ran 0x10000000 { start with gfPrim := 0x1F, gfSize := 16 }) 5 3 ∧
    trapped start (ran 0x10000000 { start with gfPrim := 0x13, gfSize := 32 }) 5 2 ∧
    trapped start (ran 0x10000000 { start with gfPrim := 0x13, gfSize := 24 }) 5 1 := by decide

theorem test_gfadd : (ran 0x11312000 ((f16.writeX 1 7).writeX 2 12)).readX 3 = 11 := by decide

theorem test_gfadd_first_operand_reported : trapped ((f16.writeX 1 16).writeX 2 17) (ran 0x11312000 ((f16.writeX 1 16).writeX 2 17)) 7 16 := by decide

theorem test_gfmul : (ran 0x12312000 ((f16.writeX 1 8).writeX 2 2)).readX 3 = 3 := by decide

theorem test_gfmul_range_before_zero : trapped (f16.writeX 2 16) (ran 0x12312000 (f16.writeX 2 16)) 7 16 := by decide

theorem test_gfinv : (ran 0x13520000 (f16.writeX 2 7)).readX 5 = 6 ∧ (ran 0x13310000 (f16.writeX 1 1)).readX 3 = 1 := by decide

theorem test_gfinv_of_zero : trapped f16 (ran 0x13310000 f16) 8 1 := by decide

theorem test_gfexp_last_entry : (ran 0x14310000 (f16.writeX 1 15)).readX 3 = 1 ∧ (ran 0x14310000 (f16.writeX 1 4)).readX 3 = 3 := by decide

theorem test_gfexp_out_of_range : trapped (f16.writeX 1 16) (ran 0x14310000 (f16.writeX 1 16)) 7 16 := by decide

theorem test_gflog : (ran 0x15310000 (f16.writeX 1 9)).readX 3 = 14 ∧ (ran 0x15310000 (f16.writeX 1 1)).readX 3 = 0 := by decide

theorem test_gflog_of_zero : trapped f16 (ran 0x15310000 f16) 8 2 := by decide

/-! ### Vector and polynomial instructions (table V) -/

theorem test_vld : (ran 0x20023000 ((regs f16 20 4 0).writeRun 20 polyA)).readV 0 = polyA := by decide

theorem test_vld_out_of_bounds : trapped (regs f16 4090 7 0) (ran 0x20023000 (regs f16 4090 7 0)) 3 4096 ∧
    trapped (regs f16 5000 0 0) (ran 0x20023000 (regs f16 5000 0 0)) 3 5000 := by decide

theorem test_vst : (ran 0x21120000 ((f16.writeX 2 30).writeV 1 polyA)).readRun 30 4 = polyA := by decide

theorem test_vst_out_of_bounds : trapped ((f16.writeX 2 4093).writeV 1 polyA) (ran 0x21120000 ((f16.writeX 2 4093).writeV 1 polyA)) 3 4096 := by decide

theorem test_vlen : (ran 0x22120000 (start.writeV 2 [0, 0, 5])).readX 1 = 3 := by decide

theorem test_vget : (ran 0x23102000 ((f16.writeX 2 2).writeV 0 polyA)).readX 1 = 7 := by decide

theorem test_vget_past_end : trapped ((f16.writeX 2 4).writeV 0 polyA) (ran 0x23102000 ((f16.writeX 2 4).writeV 0 polyA)) 12 4 := by decide

theorem test_vmov_raw : (ran 0x24100000 (start.writeV 0 [0, 0, 99])).readV 1 = [0, 0, 99] := by decide

theorem test_pnorm : (ran 0x25100000 (f16.writeV 0 [0, 0, 5, 0])).readV 1 = [5, 0] ∧
    (ran 0x25000000 (f16.writeV 0 [0, 0, 0])).readV 0 = [0] := by decide

theorem test_pnorm_traps : trapped (f16.writeV 0 [0, 0, 99]) (ran 0x25100000 (f16.writeV 0 [0, 0, 99])) 7 99 ∧
    trapped f16 (ran 0x25100000 f16) 9 0 := by decide

theorem test_pmono : (ran 0x26123000 (regs f16 3 7 0)).readV 1 = [7, 0, 0, 0] ∧
    (ran 0x26123000 (regs f16 4096 0 0)).readV 1 = [0] := by decide

theorem test_pmono_too_long : trapped (regs f16 4096 1 0) (ran 0x26123000 (regs f16 4096 1 0)) 11 4097 := by decide

theorem test_pdeg : (ran 0x27100000 (f16.writeV 0 [0, 0, 5, 0])).readX 1 = 1 ∧
    (ran 0x27100000 (f16.writeV 0 [0])).readX 1 = 0 := by decide

theorem test_pdeg_needs_field : trapped (start.writeV 0 polyA) (ran 0x27100000 (start.writeV 0 polyA)) 6 0 := by decide

theorem test_pcoef : (ran 0x28102000 ((f16.writeX 2 3).writeV 0 polyA)).readX 1 = 3 ∧
    (ran 0x28102000 ((f16.writeX 2 4).writeV 0 polyA)).readX 1 = 0 := by decide

theorem test_pisz : (ran 0x29100000 (f16.writeV 0 [0, 0])).readX 1 = 1 ∧ (ran 0x29100000 (f16.writeV 0 polyA)).readX 1 = 0 := by decide

theorem test_padd : (ran 0x2A201000 ((f16.writeV 0 polyA).writeV 1 polyB)).readV 2 = [3, 0, 2, 3] ∧
    (ran 0x2A000000 (f16.writeV 0 polyA)).readV 0 = [0] := by decide

theorem test_padd_second_source_empty : trapped (f16.writeV 0 polyA) (ran 0x2A201000 (f16.writeV 0 polyA)) 9 1 := by decide

theorem test_pmul : (ran 0x2B201000 ((f16.writeV 0 polyA).writeV 1 polyB)).readV 2 = [15, 6, 8, 11, 2] := by decide

theorem test_pmul_into_source : (ran 0x2B001000 ((f16.writeV 0 [1, 2]).writeV 1 [1, 4])).readV 0 = [1, 6, 8] := by decide

theorem test_pscale : (ran 0x2C102000 ((f16.writeX 2 7).writeV 0 polyA)).readV 1 = [9, 0, 6, 7] ∧
    (ran 0x2C102000 (f16.writeV 0 polyA)).readV 1 = [0] := by decide

theorem test_pmulm : (ran 0x2D102300 ((regs f16 2 7 0).writeV 0 polyA)).readV 1 = [9, 0, 6, 7, 0, 0] := by decide

theorem test_pmulm_overflow : trapped ((regs f16 4093 1 0).writeV 0 polyA) (ran 0x2D102300 ((regs f16 4093 1 0).writeV 0 polyA)) 11 4097 ∧
    (ran 0x2D102300 ((regs f16 4093 1 0).writeV 0 [0])).readV 1 = [0] := by decide

theorem test_pdiv : (ran 0x2E010100 ((f16.writeV 0 polyA).writeV 1 polyB)).readV 0 = [14, 3, 11] ∧
    (ran 0x2E010100 ((f16.writeV 0 polyA).writeV 1 polyB)).readV 1 = [4] := by decide

theorem test_pdiv_by_zero : trapped ((f16.writeV 2 polyA).writeV 3 [0, 0]) (ran 0x2E012300 ((f16.writeV 2 polyA).writeV 3 [0, 0])) 10 0 := by decide

theorem test_peval : (ran 0x2F102000 ((f16.writeX 2 15).writeV 0 polyA)).readX 1 = 13 ∧
    (ran 0x2F102000 ((f16.writeX 2 3).writeV 0 [1, 13, 12, 8, 7])).readX 1 = 0 := by decide

/-! ### Encoder (table E) -/

theorem test_rsgen : (ran 0x30040000 (f16.writeX 4 4)).genTop = 4 ∧
    (ran 0x30040000 ((f16.warmCache 4).writeX 4 2)).genTop = 4 := by decide

theorem test_rsgen_too_high : trapped (f16.writeX 4 4096) (ran 0x30040000 (f16.writeX 4 4096)) 11 4097 := by decide

theorem test_pgen : (ran 0x31340000 (f16.writeX 4 4)).readV 3 = [1, 13, 12, 8, 7] ∧ (ran 0x31340000 (f16.writeX 4 4)).genTop = 4 := by decide

theorem test_rsenc : (ran 0x32023400 ((regs f16 50 3 4).writeRun 50 [1, 2, 3, 99, 99, 99, 99])).readRun 50 7 =
    [1, 2, 3, 2, 12, 7, 13] := by decide

theorem test_rsenc_parameters : trapped (regs f16 50 0 0) (ran 0x32023400 (regs f16 50 0 0)) 13 1 ∧
    trapped (regs f16 50 0 4) (ran 0x32023400 (regs f16 50 0 4)) 13 2 ∧
    trapped (regs f16 4090 3 4) (ran 0x32023400 (regs f16 4090 3 4)) 3 4096 := by decide

/-! ### Decoder (table D4) -/

theorem test_rssyn : (ran 0x40023400 received).readV 0 = [10, 8, 15, 12] := by decide

theorem test_rssyn_parameters : trapped (regs f16 0 0 4) (ran 0x40023400 (regs f16 0 0 4)) 13 2 ∧
    trapped (received.writeX 4 4096) (ran 0x40023400 (received.writeX 4 4096)) 11 4097 := by decide

theorem test_rseuc : (ran 0x41120400 (received.writeV 0 [12, 9, 8, 10])).readV 1 = [14, 10, 1] ∧
    (ran 0x41120400 (received.writeV 0 [12, 9, 8, 10])).readV 2 = [10] := by decide

theorem test_rseuc_zero_twoS : trapped ((f16.writeV 0 [1]).writeX 4 0) (ran 0x41120400 ((f16.writeV 0 [1]).writeX 4 0)) 14 0 := by decide

theorem test_rschien : (ran 0x42310000 (f16.writeV 1 [14, 10, 1])).readV 3 = [6, 12] := by decide

theorem test_rschien_mismatch : trapped (f16.writeV 1 [2, 7, 1]) (ran 0x42310000 (f16.writeV 1 [2, 7, 1])) 16 0 ∧
    trapped (f16.writeV 1 [0]) (ran 0x42310000 (f16.writeV 1 [0])) 16 15 := by decide

theorem test_rsforn : (ran 0x43423000 ((f16.writeV 2 [10]).writeV 3 [6, 12])).readV 4 = [1, 1] := by decide

theorem test_rsforn_equal_locations : trapped ((f16.writeV 2 [12]).writeV 3 [12, 12]) (ran 0x43423000 ((f16.writeV 2 [12]).writeV 3 [12, 12])) 8 1 := by decide

theorem test_rscorr : (ran 0x44342300 ((received.writeV 3 [12]).writeV 4 [1])).readDmem 0 = 1 ∧
    (ran 0x44342300 ((received.writeV 3 [12, 12]).writeV 4 [1, 1])).readDmem 0 = 0 := by decide

theorem test_rscorr_partly_applied : let t := ran 0x44342300 ((received.writeV 3 [12, 13]).writeV 4 [1, 1])
    t.readDmem 0 = 1 ∧ t.cause = 17 ∧ t.einfo = 1 ∧ t.epc = 10 := by decide

/-- R192's example: two errors. -/
theorem test_rsdec : let t := ran 0x45523400 (received.writeDmem 1 3)
    t.readRun 0 7 = [1, 2, 3, 2, 12, 7, 13] ∧ t.readX 5 = 2 ∧ t.readV 0 = [] := by decide

/-- R195's first example: three errors, `RsSigmaZero`. -/
theorem test_rsdec_uncorrectable : let s := received.writeRun 1 [3, 12]
    trapped s (ran 0x45523400 s) 15 0 := by decide

/-! ### Fetch, host port, resets (tables H1 to H5) -/

/-- The state after the queued host events. -/
def after (s : State) (events : List HostEvent) : State :=
  events.foldl (fun s e => match step { s with hostQueue := [e] } with | .next t => t | _ => s) s

theorem test_fetch_outside_imem : trapped start { (ran 0 { start with pc := 1024 }) with epc := 10, pc := 10 } 2 1024 ∧
    (ran 0 { start with pc := 1024 }).epc = 1024 := by decide

theorem test_fetch_illegal : trapped start (ran 0x2A812000 start) 1 0x2A812000 := by decide

theorem test_step_while_idle : step State.reset = .next State.reset := rfl

theorem test_host_start_and_clear : let s := after State.reset [.write 0x1005 0x02000000, .write 0x8015 5, .write 0x8014 0x101]
    s.runState = .run ∧ s.pc = 5 ∧ s.irq = false ∧
    (after s [.pass]).irq = true ∧ (after s [.pass, .write 0x8014 0x2]).runState = .idle ∧
    (after s [.pass, .write 0x8014 0x3]).runState = .run := by decide

theorem test_host_refused_while_running : (after start [.write 0x4001 7]).readX 1 = 0 ∧ (after start [.write 0x4001 7]).hostReply = .refused ∧
    (after start [.read 0x8010]).hostReply = .data 1 ∧ (after start [.read 0x4000]).hostReply = .refused := by decide

theorem test_host_soft_reset : let t := after (f16.writeDmem 3 9) [.write 0x8014 0x105]
    t.runState = .idle ∧ t.gfValid = false ∧ t.irqEnable = false ∧ t.readDmem 3 = 9 ∧ t.pc = 0 := by decide

theorem test_host_hard_reset : let t := after (f16.writeDmem 3 9) [.hardReset]
    t.dmem = [] ∧ t.powerCycle = 1 ∧ t.runState = .idle := by decide

theorem test_host_table_windows : let s := { f16 with runState := .idle }
    s.hostRead 0x2004 = some 3 ∧ s.hostRead 0x3009 = some 14 ∧ s.hostRead 0x2010 = none ∧
    (after s [.write 0x8002 0]).hostRead 0x2004 = none := by decide

theorem test_host_map_edges : let s := State.reset
    s.hostRead 0x1400 = none ∧ s.hostRead 0x400F = some 0 ∧ s.hostRead 0x4010 = none ∧
    s.hostRead 0x8016 = some 0 ∧ s.hostRead 0x8017 = none ∧ s.hostRead 0x8005 = none ∧
    (after s [.write 0x8000 0xFFFFFFFF]).hostRead 0x8000 = some 0x1FFF := by decide

/-! ### The minimal encoder (48_minimal_encoding_reference.md R204 to R210) -/

/-- An input of `n` characters, to be put in a square symbol. -/
def plainInput (n : Nat) : EncoderInput where
  characters := List.replicate n { char := 65, eciBlock := 0 }
  config := { fnc1 := none, shape := .square, macroId := none }

/-- One character. -/
def one : SegmentLength := ⟨1, Nat.le_refl 1⟩

/-- Two modes: mode 0 costs 2 a character; mode 1 costs 1 a character, 1 to enter, 1 to leave, and its
runs are counted. The latch is given for equal modes too, where it must not appear. -/
def twoModes : CostModel where
  slots := 2
  asciiMode := 0
  startMode := 0
  candidates input i _ := if i < input.length then [(0, one), (1, one)] else []
  segmentCost _ mode _ len _ := if mode = 0 then 2 * len.val else len.val
  transitionCost p q := if p = q then 0 else 1
  collapses _ _ _ := false
  unlatchCost _ := 1
  bytes _ e := [e.mode]
  latch _ q := [10 + q]
  header _ := []
  countsBytes mode := mode == 1
  countBytes n := [n]
  randomize255 start count run := (count ++ run).map (· + 100 * start)
  padMarker := 129
  randomize253 position := 200 + position
  capacities := [⟨12, true⟩, ⟨6, false⟩, ⟨8, true⟩, ⟨4, true⟩]

/-- Three characters: 1 to enter, 3, and 1 for the final unlatch beat 6 in mode 0. -/
theorem test_minimal_path : (minimalPath twoModes (plainInput 3)).map
      (fun c => (chainTotal c, reconstruct twoModes (plainInput 3) c)) =
    some (4, [11, 1, 1, 1]) := by decide

/-- Two characters cost 4 either way with the final unlatch: the first in slot order wins. -/
theorem test_minimal_path_tie_keeps_first :
    (minimalPath twoModes (plainInput 2)).map (fun c => c.map Edge.mode) = some [0, 0] := by decide

theorem test_minimal_path_empty_input : minimalPath twoModes (plainInput 0) = none := by decide

/-- R210 and R206: an edge whose ending collapses is filed under ASCII and needs no final unlatch. -/
theorem test_collapsed_ending :
    let model := { twoModes with collapses := fun input e _ => e.start + e.len == input.length }
    model.endSlot (plainInput 1) ⟨1, 0, one, 2⟩ [] = 0 ∧
    model.finalTotal (plainInput 1) ⟨1, 0, one, 2⟩ [] = 2 ∧
    model.finalTotal (plainInput 2) ⟨1, 0, one, 2⟩ [] = 3 := by decide

/-- R209: a run of three gets its count at position 1, the stream of 5 the square symbol of 8. -/
theorem test_minimal_encoding :
    minimalEncoding twoModes (plainInput 3) = some [11, 103, 101, 101, 101, 129, 206, 207] := by decide

/-- R209: two runs, each with its own count, the second at its position behind the first one's. -/
theorem test_protect_two_runs :
    protectRuns twoModes (plainInput 3) [⟨1, 2, one, 0⟩, ⟨0, 1, one, 0⟩, ⟨1, 0, one, 0⟩]
      [11, 1, 10, 0, 11, 1] = [11, 101, 101, 10, 0, 11, 601, 601] := by decide

/-! ### Every obligation with hypotheses has a state that meets them

One theorem for each, named after it; where a clause has a range, its boundary values. -/

theorem test_legal_f16 : LegalField 19 16 := by
  refine ⟨⟨4, by decide, by decide, by decide⟩, by decide, by decide, by decide, fun i h1 h2 => ?_⟩
  interval_cases i <;> decide

/-- The smallest field. -/
theorem test_legal_f2 : LegalField 3 2 :=
  ⟨⟨1, by decide, by decide, by decide⟩, by decide, by decide, by decide, fun i h1 h2 => by omega⟩

theorem symbol_of {f : GF} {a : Word} (h : a.toNat < f.size) : IsSymbol f a := h

theorem symbols_of {f : GF} {l : List Word} (h : (l.all fun e => decide (e.toNat < f.size)) = true) :
    AreSymbols f l := fun a ha => by simpa [IsSymbol] using List.all_eq_true.1 h a ha

theorem poly_of {f : GF} {p : Poly} (h : (p.all fun e => decide (e.toNat < f.size)) = true)
    (hp : p ≠ []) (hl : lead p = 0 → p = [0]) : IsPoly f p := ⟨hp, symbols_of h, hl⟩

theorem holds_of {s : State} {r : VReg}
    (h : ((s.readV r).all fun e => decide (e.toNat < s.gfSize.toNat)) = true) (hp : s.readV r ≠ []) :
    s.HoldsPoly r := ⟨hp, fun a ha => by simpa using List.all_eq_true.1 h a ha⟩

theorem outside_of {size : Nat} {l : List Word} {w : Word} (before rest : List Word)
    (h : l = before ++ w :: rest) (hb : (before.all fun e => decide (e.toNat < size)) = true)
    (hw : size ≤ w.toNat) : FirstOutside size l w :=
  ⟨before, rest, h, fun a ha => by simpa using List.all_eq_true.1 hb a ha, hw⟩

theorem field_built_of {s : State}
    (h : s.gfPrim = 19 ∧ s.gfSize = 16 ∧ s.gf = builtField 19 16 s.gfBase.toNat) : s.FieldBuilt :=
  fun _ => by
    obtain ⟨h1, h2, h3⟩ := h
    rw [h1, h2, h3]
    exact ⟨test_legal_f16, rfl⟩

theorem cache_built_of {s : State} (h : s.genTop = 0 ∧ s.genCache = [[1]]) : s.CacheBuilt := by
  obtain ⟨h1, h2⟩ := h
  refine ⟨by simp [h1, h2], by simp [State.cached, h2], fun _ d hd => ?_⟩
  have : d = 0 := by simpa [h1] using hd
  subst this
  simp only [State.cached, h2]
  rfl

theorem test_f16_field_built : f16.FieldBuilt := field_built_of (by decide)

theorem test_f16_cache_built : f16.CacheBuilt := cache_built_of (by decide)

theorem test_f16_vectors_fit : f16.VectorsFit := fun r => by revert r; decide

/-- A non-trivial state that meets the whole invariant: F16 built, running. -/
theorem test_f16_inv : f16.Inv :=
  ⟨⟨by decide, by decide⟩, test_f16_vectors_fit,
    ⟨fun h => absurd h (by decide), fun _ => ⟨by decide, by decide, by decide⟩⟩,
    test_f16_field_built, test_f16_cache_built⟩

theorem test_hyp_EncodeThenDecode :
    (Instr.pdiv 0 7 0 7).wellFormed = true ∧ (Instr.rseuc 6 7 7 15).wellFormed = true := by decide

theorem test_hyp_DecodeThenEncode : decode 0x2E077700 = .ok (.pdiv 0 7 7 7) := rfl

theorem test_hyp_LegalWordsMatchTheirRow :
    (⟨0x2E, "PDIV", 0x0000FF, 0x888800, true⟩ : OpcodeRow) ∈ opcodeRows ∧
    OpcodeRow.matchesWord ⟨0x2E, "PDIV", 0x0000FF, 0x888800, true⟩ 0x2E077700 = true := by decide

/-- An illegal word at the last fetchable address. -/
def illegalAtTop : State := { start with pc := 1023 }.writeImem 1023 0x2A812000

theorem test_hyp_IllegalWordsTrap :
    illegalAtTop.runState = .run ∧ illegalAtTop.hostQueue = [] ∧ illegalAtTop.pc.toNat < 1024 ∧
    decode (illegalAtTop.readImem illegalAtTop.pc.toNat) = .error .vectorFieldOutOfRange :=
  ⟨rfl, rfl, by decide, rfl⟩

/-- A legal word at the last fetchable address. -/
def legalAtTop : State := { start with pc := 1023 }.writeImem 1023 0x12625000

theorem test_hyp_StepRunsDecodedInstruction :
    legalAtTop.runState = .run ∧ legalAtTop.hostQueue = [] ∧ legalAtTop.pc.toNat < 1024 ∧
    decode (legalAtTop.readImem legalAtTop.pc.toNat) = .ok (.gfmul 6 2 5) :=
  ⟨rfl, rfl, by decide, rfl⟩

theorem test_hyp_StepIsTotal :
    (legalAtTop.runState = .run ∧ legalAtTop.hostQueue = [] ∧ ∃ t, step legalAtTop = .next t) ∧
    (State.reset.runState ≠ .run ∧ State.reset.hostQueue = []) ∧
    ({ start with pc := 1024 } : State).runState = .run ∧
    ({ start with pc := 1024 } : State).hostQueue = [] ∧
    1024 ≤ ({ start with pc := 1024 } : State).pc.toNat :=
  ⟨⟨rfl, rfl, _, rfl⟩, ⟨by decide, rfl⟩, rfl, rfl, by decide⟩

theorem test_hyp_ProgramCounterRule :
    (start.runState = .run ∧ ∃ t, exec (.jmp 7) start = .next t ∧ t.runState = .run) ∧
    ∃ t, exec .halt start = .next t ∧ t.runState ≠ .run :=
  ⟨⟨rfl, _, rfl, rfl⟩, _, rfl, by decide⟩

/-- A trap, and a trap after corrections have been made. -/
theorem test_hyp_TrapsArePrecise :
    (start.runState = .run ∧ ∃ t, exec (.gfadd 1 2 3) start = .next t ∧ t.runState = .faulted) ∧
    ((received.writeV 3 [12, 13]).writeV 4 [1, 1]).runState = .run ∧
    ∃ t, exec (.rscorr 3 4 2 3) ((received.writeV 3 [12, 13]).writeV 4 [1, 1]) = .next t ∧
      t.runState = .faulted ∧ t.cause = 17 :=
  ⟨⟨rfl, _, rfl, rfl⟩, rfl, _, rfl, by decide, by decide⟩

theorem test_hyp_CausesPerInstruction :
    f16.FieldBuilt ∧ f16.CacheBuilt ∧ f16.runState = .run ∧
    ∃ t, exec (.gfinv 1 0) f16 = .next t ∧ t.runState = .faulted :=
  ⟨test_f16_field_built, test_f16_cache_built, rfl, _, rfl, by decide⟩

theorem test_hyp_FieldReadyCheck :
    (needsField (.rsdec 1 2 3 4) = true ∧ start.gfValid = false) ∧
    needsField (.vget 1 2 3) = false ∧ start.runState = .run ∧
    ∃ t, exec (.vget 1 2 3) start = .next t ∧ t.runState = .faulted :=
  ⟨⟨rfl, rfl⟩, rfl, rfl, _, rfl, by decide⟩

theorem test_hyp_RegisterFrame :
    ∃ t, exec (.add 1 2 3) start = .next t ∧ destX (.add 1 2 3) ≠ some 2 ∧
      (0 : VReg) ∉ destV (.add 1 2 3) := ⟨_, rfl, by decide, by decide⟩

theorem test_hyp_MemoryFrame :
    f16.FieldBuilt ∧ f16.CacheBuilt ∧ (∃ t, exec (.stw 5 2 0) f16 = .next t) ∧
    1 ∉ storedTo (.stw 5 2 0) f16 :=
  ⟨test_f16_field_built, test_f16_cache_built, ⟨_, rfl⟩, by decide⟩

theorem test_hyp_ProgramFrame :
    start.runState = .run ∧ ∃ t, exec (.stw 5 2 0) start = .next t ∧ t.runState ≠ .faulted :=
  ⟨rfl, _, rfl, by decide⟩

theorem test_hyp_FieldStateFrame : ∃ t, exec (.rsgen 4) f16 = .next t := ⟨_, rfl⟩

/-- R96 and log 13: 3 - 1 + 1 restores 3 in another register, and in the subtrahend's gives 4. -/
theorem test_hyp_SubThenAddRestores :
    (∃ t u, exec (.sub 5 3 2) (regs start 1 3 0) = .next t ∧ exec (.add 5 5 2) t = .next u ∧
      u.readX 5 = 3) ∧
    ∃ t u, exec (.sub 2 3 2) (regs start 1 3 0) = .next t ∧ exec (.add 2 2 2) t = .next u ∧
      u.readX 2 = 4 :=
  ⟨⟨_, _, rfl, rfl, by decide⟩, _, _, rfl, rfl, by decide⟩

/-- The last DMEM address, the first outside, and a load by another base and offset. -/
theorem test_hyp_LoadStoreResults :
    ((start.writeX 2 0xFFFF).readX 2 + 0x1000).toNat < 4096 ∧
    4096 ≤ ((start.writeX 2 0xFFFF).readX 2 + 0x1001).toNat ∧
    (start.writeX 2 0xFFFF).readX 3 + 0x0FFF = (start.writeX 2 0xFFFF).readX 2 + 0x1000 := by decide

theorem test_hyp_CsrResults :
    ((0x0016 : Word), start.pc) ∈ [((0x0015 : Word), start.entry), (0x0016, start.pc)] ∧
    (0x0014 : Word) ∉ ([0x0013, 0x0015, 0x0016] : List Word) ∧ 3 ≤ (3 : Word).toNat := by decide

/-- A legal field, the three ways to be illegal, and the bounds of the ranges: sizes 1 and 2, prim equal
to the size and to twice the size. -/
theorem test_hyp_GfinitResults :
    LegalField f16.gfPrim.toNat f16.gfSize.toNat ∧ LegalField 3 2 ∧
    (¬∃ m, 1 ≤ m ∧ m ≤ 12 ∧ (1 : BitVec 13).toNat = 2 ^ m) ∧
    (∃ m, 1 ≤ m ∧ m ≤ 12 ∧ (2 : BitVec 13).toNat = 2 ^ m) ∧
    2 * (2 : BitVec 13).toNat ≤ (4 : BitVec 13).toNat ∧
    (2 : BitVec 13).toNat ≤ (2 : BitVec 13).toNat ∧ ¬LegalField 2 2 := by
  refine ⟨test_legal_f16, test_legal_f2, ?_, ⟨1, by decide⟩, by decide, by decide, fun h => ?_⟩
  · rintro ⟨m, h1, h2, h⟩
    interval_cases m <;> exact absurd h (by decide)
  · exact absurd h.2.2.2.1 (by decide)

theorem test_hyp_ExpTableContents :
    15 + 1 < 17 ∧ (expList 19 16)[14]? = some 9 ∧ LegalField 19 16 ∧ 2 < 16 ∧ 8 < 16 ∧ 16 ≤ 8 * 2 :=
  ⟨by decide, by decide, test_legal_f16, by decide, by decide, by decide⟩

theorem test_hyp_LogTableContents :
    LegalField 19 16 ∧ LegalField 3 2 ∧ (expList 19 16)[16 - 2]? = some 9 :=
  ⟨test_legal_f16, test_legal_f2, by decide⟩

/-- Operands 15 (the largest element), 16 (the first outside) and 0. -/
theorem test_hyp_FieldScalarResults :
    f16.gfValid = true ∧ ((f16.writeX 1 15).readX 1).toNat < f16.gfSize.toNat ∧
    (f16.writeX 1 15).readX 1 ≠ 0 ∧ f16.gfSize.toNat ≤ ((f16.writeX 1 16).readX 1).toNat ∧
    f16.readX 1 = 0 := by decide

theorem test_hyp_FieldIdentities :
    LegalField 19 16 ∧ IsSymbol (builtField 19 16 1) 15 ∧ IsSymbol (builtField 19 16 1) 0 ∧
    (15 : Word) ≠ 0 ∧ 14 ≤ 16 - 2 := ⟨test_legal_f16, symbol_of (by decide), symbol_of (by decide), by decide, by decide⟩

theorem test_hyp_MultiplyIsCarrylessProduct :
    LegalField 3 2 ∧ IsSymbol (builtField 3 2 0) 1 := ⟨test_legal_f2, symbol_of (by decide)⟩

/-- Runs that end at the last word and one beyond; an index at the last entry and at the length. -/
theorem test_hyp_RawVectorResults :
    ((regs start 4090 6 0).readX 2).toNat + ((regs start 4090 6 0).readX 3).toNat ≤ 4096 ∧
    4096 < ((regs start 4090 7 0).readX 2).toNat + ((regs start 4090 7 0).readX 3).toNat ∧
    ((start.writeX 2 4092).readX 2).toNat + ((start.writeV 1 polyA).readV 1).length ≤ 4096 ∧
    4096 < ((start.writeX 2 4093).readX 2).toNat + ((start.writeV 1 polyA).readV 1).length ∧
    ((start.writeV 1 polyA).readV 1)[3]? = some 1 ∧
    ((start.writeV 1 polyA).readV 1).length ≤ ((start.writeX 2 4).readX 2).toNat := by decide

theorem test_hyp_NormRule :
    ([0, 0] : List Word) ≠ [] ∧ lead (norm [0, 0]) = 0 ∧ AreSymbols f16.gf [0, 15] :=
  ⟨by decide, by decide, symbols_of (by decide)⟩

theorem test_hyp_PolyQueryResults :
    f16.gfValid = true ∧ (f16.writeV 0 [0, 15]).HoldsPoly 0 ∧
    [15] = norm ((f16.writeV 0 [0, 15]).readV 0) ∧
    ((f16.writeX 2 15).readX 2).toNat < f16.gfSize.toNat ∧
    f16.gfSize.toNat ≤ ((f16.writeX 2 16).readX 2).toNat :=
  ⟨by decide, holds_of (by decide) (by decide), by decide, by decide, by decide⟩

/-- Two polynomials, a coefficient and a degree at the largest values that complete, and lengths that
add to exactly 4096. -/
theorem test_hyp_PolyBuildResults :
    let s := (regs f16 4095 15 0).writeV 0 polyA |>.writeV 1 polyB
    s.gfValid = true ∧ s.HoldsPoly 0 ∧ s.HoldsPoly 1 ∧ (s.readX 3).toNat < s.gfSize.toNat ∧
    (s.readX 2).toNat ≤ 4095 ∧ norm polyB ≠ [0] ∧ norm polyA = polyA ∧
    polyA.length + 4092 ≤ 4096 ∧ polyA.length + polyB.length - 1 ≤ 4096 :=
  ⟨by decide, holds_of (by decide) (by decide), holds_of (by decide) (by decide), by decide, by decide, by decide,
    by decide, by decide, by decide⟩

/-- An empty source after a good one, a first bad entry, a scalar outside, lengths of 4097, and a zero
divisor. -/
theorem test_hyp_PolyTraps :
    let s := ((regs f16 4096 15 0).writeV 0 polyA).writeV 1 [0, 15, 16, 17]
    s.gfValid = true ∧ polySources (.pdiv 4 5 0 2) = [0] ++ 2 :: [] ∧ s.HoldsPoly 0 ∧
    s.readV 2 = [] ∧ FirstOutside s.gfSize.toNat (s.readV 1) 16 ∧
    s.gfSize.toNat ≤ ((s.writeX 3 16).readX 3).toNat ∧ (s.readX 3).toNat < s.gfSize.toNat ∧
    s.readX 3 ≠ 0 ∧ 4096 ≤ (s.readX 2).toNat ∧ norm polyA ≠ [0] ∧
    4096 < (norm polyA).length + (s.readX 2).toNat ∧
    norm [0, 0] = [0] :=
  ⟨by decide, by decide, holds_of (by decide) (by decide), by decide,
    outside_of [0, 15] [17] (by decide) (by decide) (by decide), by decide, by decide, by decide, by decide,
    by decide, by decide, by decide⟩

/-- Two polynomials whose product would have 4097 coefficients. -/
theorem test_hyp_PolyTraps_product :
    let s := (f16.writeV 0 (1 :: zeros 4094)).writeV 1 [1, 1, 1]
    s.gfValid = true ∧ s.HoldsPoly 0 ∧ s.HoldsPoly 1 ∧ norm (s.readV 0) ≠ [0] ∧
    4096 < (norm (s.readV 0)).length + (norm (s.readV 1)).length - 1 := by
  intro s
  have h0 : s.readV 0 = 1 :: zeros 4094 := rfl
  have hn : norm (1 :: zeros 4094) = 1 :: zeros 4094 := rfl
  have hl : (1 :: zeros 4094 : Poly).length = 4095 := by
    rw [List.length_cons, zeros, List.length_replicate]
  refine ⟨by decide, ⟨by rw [h0]; exact List.cons_ne_nil _ _, fun e he => ?_⟩, holds_of (by decide) (by decide), ?_, ?_⟩
  · rw [h0] at he
    rcases List.mem_cons.1 he with rfl | he
    · decide
    · rw [List.eq_of_mem_replicate he]; decide
  · rw [h0, hn]; exact fun h => absurd (List.cons.inj h).1 (by decide)
  · rw [h0, hn, hl]; decide

theorem test_hyp_PolynomialRingLaws :
    LegalField 19 16 ∧ IsPoly (builtField 19 16 1) polyA ∧ IsPoly (builtField 19 16 1) [0] ∧
    polyA ≠ [0] :=
  ⟨test_legal_f16, poly_of (by decide) (by decide) (by decide), poly_of (by decide) (by decide) (by decide), by decide⟩

/-- A divisor, a constant divisor, the zero divisor, and a dividend of lower degree. -/
theorem test_hyp_DivisionLaws :
    LegalField 19 16 ∧ IsPoly (builtField 19 16 1) polyA ∧ IsPoly (builtField 19 16 1) polyB ∧
    IsPoly (builtField 19 16 1) [7] ∧ deg [7] = 0 ∧ ([7] : Poly) ≠ [0] ∧ deg polyB < deg polyA ∧
    IsPoly (builtField 19 16 1) [14, 3, 11] ∧ IsPoly (builtField 19 16 1) [4] ∧
    polyA = polyAdd (polyMul (builtField 19 16 1) [14, 3, 11] polyB) [4] ∧ deg [4] < deg polyB :=
  ⟨test_legal_f16, poly_of (by decide) (by decide) (by decide), poly_of (by decide) (by decide) (by decide),
    poly_of (by decide) (by decide) (by decide), by decide, by decide, by decide,
    poly_of (by decide) (by decide) (by decide), poly_of (by decide) (by decide) (by decide), by decide, by decide⟩

theorem test_hyp_EvaluationLaws :
    LegalField 19 16 ∧ IsPoly (builtField 19 16 1) polyA ∧ IsSymbol (builtField 19 16 1) 15 :=
  ⟨test_legal_f16, poly_of (by decide) (by decide) (by decide), symbol_of (by decide)⟩

theorem test_hyp_GeneratorShape :
    LegalField 19 16 ∧ IsSymbol (builtField 19 16 1) 2 ∧
    polyEval (builtField 19 16 1) (rsGenerator (builtField 19 16 1) 4) 2 = 0 :=
  ⟨test_legal_f16, symbol_of (by decide), by decide⟩

/-- The largest degree that completes and the smallest that traps. -/
theorem test_hyp_GeneratorInstructionResults :
    f16.gfValid = true ∧ (f16.writeX 4 4095).CacheBuilt ∧
    ((f16.writeX 4 4095).readX 4).toNat ≤ 4095 ∧ 4096 ≤ ((f16.writeX 4 4096).readX 4).toNat :=
  ⟨by decide, cache_built_of (by decide), by decide, by decide⟩

/-- A block that ends at the last DMEM word. -/
def blockAtTop : State := (regs f16 4090 3 3).writeRun 4090 [1, 2, 3]

theorem test_hyp_RsencResults :
    blockAtTop.gfValid = true ∧ blockAtTop.FieldBuilt ∧ blockAtTop.CacheBuilt ∧
    (blockAtTop.readX 2).toNat = 4090 ∧ (blockAtTop.readX 3).toNat = 3 ∧
    (blockAtTop.readX 4).toNat = 3 ∧ 4090 + 3 + 3 ≤ 4096 ∧
    ∀ i, i < 3 → (blockAtTop.readDmem (4090 + i)).toNat < blockAtTop.gfSize.toNat :=
  ⟨by decide, field_built_of (by decide), cache_built_of (by decide), by decide, by decide, by decide, by decide,
    by decide⟩

theorem test_hyp_EncodedBlockIsCodeword :
    blockAtTop.FieldBuilt ∧ blockAtTop.CacheBuilt ∧ blockAtTop.runState = .run ∧
    ∃ t, exec (.rsenc 2 3 4) (blockAtTop.writeX 5 6) = .next t ∧ t.runState = .run ∧
      (t.readX 2).toNat = 4090 ∧ (t.readX 5).toNat = 3 + 3 ∧ (t.readX 4).toNat = 3 :=
  ⟨field_built_of (by decide), cache_built_of (by decide), by decide, _, rfl, by decide, by decide, by decide,
    by decide⟩

/-- The parameter values at which the checks change: 0, a run of 4097 words, a first bad word, `twoS` of
4096, lists of different and of equal length, a zero location. -/
theorem test_hyp_BlockCheckTraps :
    (regs f16 0 0 0).gfValid = true ∧ 4096 < 4090 + 3 + 4 ∧ 4096 < 4090 + 7 ∧ 4095 < 4096 ∧
    FirstOutside 16 ((received.writeDmem 2 16).readRun 0 7) 16 ∧
    AreSymbols received.gf (received.readRun 0 7) ∧
    ((received.writeV 3 [12]).readV 3).length ≠ (received.readV 4).length ∧
    (((received.writeV 3 [0]).writeV 4 [1]).readV 3).length =
      (((received.writeV 3 [0]).writeV 4 [1]).readV 4).length ∧
    (0 : Word) ∈ (received.writeV 3 [0]).readV 3 ∧ FirstOutside 16 ([12] ++ [16] : List Word) 16 :=
  ⟨by decide, by decide, by decide, by decide,
    outside_of [0, 2] [2, 12, 7, 13] (by decide) (by decide) (by decide), symbols_of (by decide), by decide, by decide,
    by decide, outside_of [12] [] (by decide) (by decide) (by decide)⟩

theorem test_hyp_RssynResults :
    (received.writeX 4 4095).gfValid = true ∧ ((received.writeX 4 4095).readX 4).toNat ≤ 4095 ∧
    1 ≤ (received.readX 3).toNat ∧ (received.readX 2).toNat + (received.readX 3).toNat ≤ 4096 ∧
    ∀ i, i < 7 → (received.readDmem (0 + i)).toNat < received.gfSize.toNat := by decide

/-- A successful run, a failing one, a zero syndrome polynomial, and `R` of 0, 4095 and 4096. -/
theorem test_hyp_RseucResults :
    f16.gfValid = true ∧ f16.FieldBuilt ∧ (f16.writeV 0 [10, 8, 15, 12]).HoldsPoly 0 ∧
    rsEuclid f16.gf (norm [10, 8, 15, 12]) 4 = .ok ([12, 1], [12]) ∧
    rsEuclid f16.gf (norm [1]) 0 = .error ⟨.rsEuclidZero, 0⟩ ∧ norm [0] = [0] ∧
    ((f16.writeX 4 4095).readX 4).toNat ≤ 4095 ∧ 4095 < ((f16.writeX 4 4096).readX 4).toNat :=
  ⟨by decide, test_f16_field_built, holds_of (by decide) (by decide), rfl, rfl, by decide, by decide, by decide⟩

theorem test_hyp_KeyEquation :
    LegalField 19 16 ∧ IsPoly (builtField 19 16 1) [12, 9, 8, 10] ∧
    rsEuclid (builtField 19 16 1) [12, 9, 8, 10] 4 = .ok ([14, 10, 1], [10]) :=
  ⟨test_legal_f16, poly_of (by decide) (by decide) (by decide), rfl⟩

/-- A sigma with as many roots as its degree, and one with fewer. -/
theorem test_hyp_RschienResults :
    f16.gfValid = true ∧ f16.FieldBuilt ∧ (f16.writeV 1 [14, 10, 1]).HoldsPoly 1 ∧
    (chienSearch f16.gf [14, 10, 1]).length = deg [14, 10, 1] ∧
    (chienSearch f16.gf [2, 7, 1]).length ≠ deg [2, 7, 1] :=
  ⟨by decide, test_f16_field_built, holds_of (by decide) (by decide), by decide, by decide⟩

theorem test_hyp_RsfornResults :
    f16.gfValid = true ∧ f16.FieldBuilt ∧ (f16.writeV 2 [10]).HoldsPoly 2 ∧
    AreSymbols f16.gf [6, 12] ∧ (0 : Word) ∉ ([6, 12] : List Word) ∧ ([6, 12] : List Word).Nodup ∧
    ¬((0 : Word) ∉ ([12, 12] : List Word) ∧ ([12, 12] : List Word).Nodup) ∧
    FirstOutside 16 ([12, 16] : List Word) 16 :=
  ⟨by decide, test_f16_field_built, holds_of (by decide) (by decide), symbols_of (by decide), by decide, by decide,
    by decide, outside_of [12] [] (by decide) (by decide) (by decide)⟩

/-- Location 12 has logarithm 6, the last that fits a block of 7; location 11 has 7, the first that
does not. -/
theorem test_hyp_RscorrResults :
    received.gfValid = true ∧ (received.readX 2).toNat + (received.readX 3).toNat ≤ 4096 ∧
    AreSymbols received.gf [12, 11] ∧ (0 : Word) ∉ ([12, 11] : List Word) ∧
    logAt received.gf 12 ≤ 7 - 1 ∧ 7 - 1 < logAt received.gf 11 ∧
    ([12, 11] : List Word)[1]? = some 11 :=
  ⟨by decide, by decide, symbols_of (by decide), by decide, by decide, by decide, by decide⟩

/-- A block with all syndromes zero, and one whose four steps find a correction inside it. -/
theorem test_hyp_RsdecResults :
    received.gfValid = true ∧ AreSymbols received.gf (received.readRun 0 7) ∧
    (∀ i, i < 4 → syndromeAt received.gf ((received.writeDmem 0 1).readRun 0 7) i = 0) ∧
    (¬∀ i, i < 4 → syndromeAt received.gf (received.readRun 0 7) i = 0) ∧
    rsEuclid received.gf
      (synPoly ((List.range 4).map (syndromeAt received.gf (received.readRun 0 7)))) 4 =
      .ok ([12, 1], [12]) ∧
    rsChien received.gf [12, 1] = .ok [12] ∧ rsForney received.gf [12] [12] = .ok [1] ∧
    logAt received.gf 12 ≤ 7 - 1 :=
  ⟨by decide, symbols_of (by decide), by decide, by decide, rfl, rfl, rfl, by decide⟩

/-- R195's blocks with three errors: no sigma, a sigma without roots, a location outside the block. -/
theorem test_hyp_RsdecResults_failing :
    let syn (s : State) := synPoly ((List.range 4).map (syndromeAt s.gf (s.readRun 0 7)))
    rsEuclid received.gf (syn (received.writeRun 1 [3, 12])) 4 = .error ⟨.rsSigmaZero, 0⟩ ∧
    rsEuclid received.gf (syn (received.writeRun 1 [3, 0])) 4 = .ok ([2, 7, 1], [12, 15]) ∧
    rsChien received.gf [2, 7, 1] = .error ⟨.rsLocatorMismatch, 0⟩ ∧
    rsEuclid received.gf (syn (received.writeRun 1 [3, 2])) 4 = .ok ([1, 9, 1], [9]) ∧
    rsChien received.gf [1, 9, 1] = .ok [13, 4] ∧ rsForney received.gf [9] [13, 4] = .ok [1, 1] ∧
    ([13, 4] : List Word)[0]? = some 13 ∧ 7 - 1 < logAt received.gf 13 ∧
    rsForney received.gf [9] [13, 13] = .error ⟨.gfArith, 1⟩ :=
  ⟨rfl, rfl, rfl, rfl, rfl, rfl, rfl, by decide, rfl⟩

theorem test_hyp_RsdecEndsCleanly :
    received.FieldBuilt ∧ received.gfValid = true ∧ received.runState = .run ∧
    1 ≤ (received.readX 3).toNat ∧ (received.readX 2).toNat + (received.readX 3).toNat ≤ 4096 ∧
    (received.readX 4).toNat ≤ 4095 ∧
    AreSymbols received.gf (received.readRun (received.readX 2).toNat (received.readX 3).toNat) :=
  ⟨field_built_of (by decide), by decide, by decide, by decide, by decide, by decide, symbols_of (by decide)⟩

/-- The block `[1, 2, 3]` and its four check symbols, as `RSENC` leaves them. -/
def encodedBlock : State :=
  match exec (.rsenc 2 3 4) ((regs f16 0 3 4).writeRun 0 [1, 2, 3]) with
  | .next t => t
  | .fault _ => f16
  | .refused _ => f16

/-- Two of its seven words changed, the most that four check symbols correct. -/
def changedBlock : State := ((encodedBlock.writeDmem 0 0).writeDmem 1 3).writeX 5 7

theorem test_hyp_RsdecEndsCleanly_bound :
    ((regs f16 0 3 4).writeRun 0 [1, 2, 3]).FieldBuilt ∧
    ((regs f16 0 3 4).writeRun 0 [1, 2, 3]).CacheBuilt ∧ f16.gfBase.toNat ≤ 1 ∧
    3 + 4 ≤ f16.gfSize.toNat - 1 ∧
    exec (.rsenc 2 3 4) ((regs f16 0 3 4).writeRun 0 [1, 2, 3]) = .next encodedBlock ∧
    encodedBlock.runState = .run ∧
    changedBlock = { encodedBlock with
      x := changedBlock.x, dmem := changedBlock.dmem, pc := changedBlock.pc } ∧
    (∀ k, k < 7 → (changedBlock.readDmem (0 + k)).toNat < f16.gfSize.toNat) ∧
    (List.range 7).filter (fun k => changedBlock.readDmem (0 + k) != encodedBlock.readDmem (0 + k)) =
      [0, 1] ∧
    (changedBlock.readX 2).toNat = 0 ∧ (changedBlock.readX 5).toNat = 7 ∧
    (changedBlock.readX 4).toNat = 4 :=
  ⟨field_built_of (by decide), cache_built_of (by decide), by decide, by decide, rfl, by decide, rfl,
    by decide, by decide, by decide, by decide, by decide⟩

theorem test_hyp_HostWhileRunning :
    ({ start with hostQueue := [.write 0x8014 1] } : State).runState = .run ∧
    ({ start with hostQueue := [.write 0x8014 1] } : State).hostQueue = .write 0x8014 1 :: [] ∧
    ¬((0x8014 : Word) = 0x8014 ∧ (1 : Word32).getLsbD 2 = true) := ⟨rfl, rfl, by decide⟩

/-- The first and the last address of every range of the host map. -/
theorem test_hyp_HostMapWhileStopped :
    State.reset.runState ≠ .run ∧ (0x0FFF : Word).toNat ≤ 0x0FFF ∧ 0x1000 ≤ (0x1000 : Word).toNat ∧
    (0x13FF : Word).toNat ≤ 0x13FF ∧ 0x1400 ≤ (0x1400 : Word).toNat ∧
    (0x1FFF : Word).toNat ≤ 0x1FFF ∧ 0x2000 ≤ (0x2000 : Word).toNat ∧
    (0x2FFF : Word).toNat ≤ 0x2FFF ∧ 0x3000 ≤ (0x3000 : Word).toNat ∧
    (0x3FFF : Word).toNat ≤ 0x3FFF ∧ (0x400F : Word).toNat = 0x4000 + (15 : XReg).val ∧
    0x4010 ≤ (0x4010 : Word).toNat ∧ (0x7FFF : Word).toNat ≤ 0x7FFF ∧
    (0x8016 : Word).toNat = 0x8000 + 0x16 ∧ 0x8017 ≤ (0x8017 : Word).toNat := by decide

/-- A machine whose host writes `START`, and one whose host reads, resets or passes. -/
theorem test_hyp_RunStateTransitions :
    (∃ t, step { State.reset with hostQueue := [.write 0x8014 1] } = .next t ∧ t.runState = .run) ∧
    (∃ t, step { start with hostQueue := [.read 0x8010] } = .next t) ∧
    (∃ t, step { start with hostQueue := [.hardReset] } = .next t) ∧
    (∃ t, step { State.reset with hostQueue := [.pass] } = .next t) ∧
    (0x4000 : Word) ≠ 0x8014 ∧ (1 : Word32).getLsbD 2 = false ∧ State.reset.runState ≠ .run :=
  ⟨⟨_, rfl, rfl⟩, ⟨_, rfl⟩, ⟨_, rfl⟩, ⟨_, rfl⟩, by decide, by decide, by decide⟩

/-- Reads and writes that complete and that are refused, with the sequencer stopped. -/
theorem test_hyp_RunStateTransitions_replies :
    State.reset.hostRead 0x8010 = some 0 ∧ State.reset.hostRead 0x1400 = none ∧
    State.reset.hostWrite 0x4001 7 = some (State.reset.writeX 1 7) ∧
    State.reset.hostWrite 0x8003 1 = none ∧ (4 : Word32).getLsbD 2 = true := by decide

/-- `VALID` goes up by `GFINIT` and down by `CSRW`. -/
theorem test_hyp_ValidChanges :
    (let s := ({ start with gfPrim := 0x13, gfSize := 16 } : State).writeImem 10 0x10000000
    ∃ t, step s = .next t ∧ s.gfValid = false ∧ t.gfValid = true) ∧
    (let s := f16.writeImem 10 0x0F010002
    ∃ t, step s = .next t ∧ s.gfValid = true ∧ t.gfValid = false) :=
  ⟨⟨_, rfl, by decide, by decide⟩, _, rfl, by decide, by decide⟩

/-- F16 with an `RSENC` at the pc: the premises of MemoryStaysCanonical, TrapRegistersKept,
FieldAndCacheKept and VectorsAlwaysFit, and the step. -/
theorem test_hyp_invariants :
    let s := blockAtTop.writeImem 10 0x32023400
    s.MemoryCanonical ∧ s.TrapRegistersMatch ∧ s.FieldBuilt ∧ s.CacheBuilt ∧ s.VectorsFit ∧
    ∃ t, step s = .next t ∧ t.runState = .run ∧ t.genTop = 3 :=
  ⟨⟨by decide, by decide⟩,
    ⟨fun h => absurd h (by decide), fun _ => ⟨by decide, by decide, by decide⟩⟩,
    field_built_of (by decide), cache_built_of (by decide), fun r => by revert r; decide,
    _, rfl, by decide, by decide⟩

theorem test_hyp_AddEdgeRelaxes :
    slotAt [((1, 0), [⟨0, 0, one, 5⟩])] 1 0 = ⟨0, 0, one, 5⟩ :: [] ∧ slotAt [] 1 0 = [] ∧
    1 = (⟨0, 0, one, 4⟩ : Edge).start + (⟨0, 0, one, 4⟩ : Edge).len := by decide

/-- One mode, cost 1 a character: additive, with a chain to the end of an input of one character. -/
def oneMode : CostModel :=
  { twoModes with
    slots := 1
    candidates := fun _ i _ => if i = 0 then [(0, one)] else []
    segmentCost := fun _ _ _ len _ => len.val }

theorem test_hyp_MinimalPathIsCheapest :
    AdditiveCosts oneMode (plainInput 1) ∧
    IsChain oneMode (plainInput 1) [⟨0, 0, one, 1⟩] (plainInput 1).length := by
  refine ⟨⟨fun _ _ _ _ => rfl, fun _ _ _ _ _ _ => rfl, fun _ _ _ _ _ => rfl, ?_⟩,
    .extend (mode := 0) (len := one) .start (by decide)⟩
  intro i prev mode len h
  simp only [oneMode] at h
  split at h
  · obtain ⟨rfl, rfl⟩ : mode = 0 ∧ len = one := by simpa using h
    exact fun k => Nat.zero_lt_one
  · cases h

end Sys2Proof.Tests
end

section
/-! PROOFS. The resets (10_state.md R33, R250, R251). -/

namespace Sys2Proof.Machine

/-! ### What every reset leaves -/

/-- The engine's guaranteed state is that of R33's table: only the two memories and the model's own
fields may differ from `State.reset`. -/
def State.EngineReset (t : State) : Prop :=
  t = { State.reset with
    imem := t.imem, dmem := t.dmem, powerCycle := t.powerCycle
    hostQueue := t.hostQueue, hostReply := t.hostReply }

theorem State.reset_engineReset : State.reset.EngineReset := rfl

theorem State.hardReset_engineReset (s : State) : s.hardReset.EngineReset := rfl

theorem State.softReset_engineReset (s : State) : s.softReset.EngineReset := rfl

theorem State.EngineReset.readX {t : State} (h : t.EngineReset) (r : XReg) : t.readX r = 0 := by
  rw [h]
  exact Vector.getElem_replicate r.isLt

theorem State.EngineReset.readV {t : State} (h : t.EngineReset) (r : VReg) : t.readV r = [] := by
  rw [h]
  exact Vector.getElem_replicate r.isLt

/-! ### What a soft reset keeps (R251) -/

@[simp] theorem State.softReset_readDmem (s : State) (a : Nat) :
    s.softReset.readDmem a = s.readDmem a := rfl

@[simp] theorem State.softReset_readImem (s : State) (a : Nat) :
    s.softReset.readImem a = s.readImem a := rfl

/-! ### The statement -/

/-- Settles O52: each of the three reset states is an `EngineReset`, whose registers are those of R33's
table and whose completion line is low because `IE` is 0 (R229); a soft reset keeps both memories. -/
theorem resetValues : Obligations.ResetValues := by
  unfold Obligations.ResetValues
  refine ⟨fun s t reached => ?_, fun s a => ⟨s.softReset_readDmem a, s.softReset_readImem a⟩⟩
  have h : t.EngineReset := by
    obtain rfl | rfl | rfl := reached
    · exact State.reset_engineReset
    · exact s.hardReset_engineReset
    · exact s.softReset_engineReset
  refine ⟨h.readX, h.readV, ?_⟩
  rw [h]
  exact ⟨rfl, rfl, rfl, rfl, rfl, rfl, rfl, rfl, rfl, rfl, rfl, rfl, rfl, rfl⟩

end Sys2Proof.Machine
end

section
/-! PROOFS. The opcode rows against the decoder (30_encoding.md R65, R66, R67, R71). -/

namespace Sys2Proof

open Sys2Proof.Machine Sys2Proof.Laws

/-! ### A field of a word and the mask over its bits (R62) -/

/-- Ones in the `len` bits of a word from bit `start` up. -/
def fieldMask (start len : Nat) : Word32 := (BitVec.allOnes len).setWidth 32 <<< start

theorem getLsbD_fieldMask (start len i : Nat) :
    (fieldMask start len).getLsbD i = decide (start ≤ i ∧ i < start + len ∧ i < 32) := by
  simp only [fieldMask, BitVec.getLsbD_shiftLeft, BitVec.getLsbD_setWidth, BitVec.getLsbD_allOnes]
  grind

/-- A field is zero exactly when the word has no bit in common with the field's mask. -/
theorem extract_eq_zero_iff (w : Word32) (start len : Nat) :
    w.extractLsb' start len = 0 ↔ w &&& fieldMask start len = 0 := by
  constructor
  · intro h
    apply BitVec.eq_of_getLsbD_eq
    intro i hi
    have hbit := congrArg (fun f => f.getLsbD (i - start)) h
    simp only [BitVec.getLsbD_extractLsb', BitVec.getLsbD_and, getLsbD_fieldMask] at hbit ⊢
    grind
  · intro h
    apply BitVec.eq_of_getLsbD_eq
    intro i hi
    have hbit := congrArg (fun f => f.getLsbD (start + i)) h
    simp only [BitVec.getLsbD_extractLsb', BitVec.getLsbD_and, getLsbD_fieldMask] at hbit ⊢
    grind

/-- A 4-bit field is below 8 exactly when its bit 3 is zero. -/
theorem extract_lt_eight_iff (w : Word32) (start : Nat) :
    (w.extractLsb' start 4).toNat < 8 ↔ w &&& fieldMask (start + 3) 1 = 0 := by
  have top_bit : w.extractLsb' (start + 3) 1 = BitVec.ofBool (w.extractLsb' start 4).msb := by
    apply BitVec.eq_of_getLsbD_eq
    intro i hi
    obtain rfl : i = 0 := by omega
    simp [BitVec.msb_eq_getLsbD_last]
  have ofBool_eq_zero : ∀ b : Bool, BitVec.ofBool b = 0 ↔ b = false := by decide
  rw [← extract_eq_zero_iff, top_bit, ofBool_eq_zero, BitVec.msb_eq_false_iff_two_mul_lt]
  omega

theorem and_or_eq_zero_iff (w m n : Word32) : w &&& (m ||| n) = 0 ↔ w &&& m = 0 ∧ w &&& n = 0 := by
  rw [BitVec.and_or_distrib_left]
  exact BitVec.or_eq_zero_iff

/-! ### The decoder's checks as masks (R67) -/

theorem zeroN_iff (w : Word32) : zeroN w = true ↔ w &&& 0xFFFFFF = 0 :=
  beq_iff_eq.trans (extract_eq_zero_iff w 0 24)

theorem zeroD_iff (w : Word32) : zeroD w = true ↔ w &&& 0xF00000 = 0 :=
  beq_iff_eq.trans (extract_eq_zero_iff w 20 4)

theorem zeroA_iff (w : Word32) : zeroA w = true ↔ w &&& 0x0F0000 = 0 :=
  beq_iff_eq.trans (extract_eq_zero_iff w 16 4)

theorem zeroLow_iff (w : Word32) : zeroLow w = true ↔ w &&& 0x0000FF = 0 :=
  beq_iff_eq.trans (extract_eq_zero_iff w 0 8)

/-- Two checks together are the check of the joined masks. -/
theorem and_iff_joined {p q : Bool} {w m n : Word32} (hp : p = true ↔ w &&& m = 0)
    (hq : q = true ↔ w &&& n = 0) : (p && q) = true ↔ w &&& (m ||| n) = 0 := by
  rw [Bool.and_eq_true, hp, hq, and_or_eq_zero_iff]

theorem zeroC_iff (w : Word32) : zeroC w = true ↔ w &&& 0x000FFF = 0 :=
  and_iff_joined (beq_iff_eq.trans (extract_eq_zero_iff w 8 4)) (zeroLow_iff w)

theorem zeroBC_iff (w : Word32) : zeroBC w = true ↔ w &&& 0x00FFFF = 0 :=
  and_iff_joined (and_iff_joined (beq_iff_eq.trans (extract_eq_zero_iff w 12 4))
    (beq_iff_eq.trans (extract_eq_zero_iff w 8 4))) (zeroLow_iff w)

theorem no_unused_iff (w : Word32) : true = true ↔ w &&& 0 = 0 := by simp

theorem zeroDA_iff (w : Word32) : (zeroD w && zeroA w) = true ↔ w &&& 0xFF0000 = 0 :=
  and_iff_joined (zeroD_iff w) (zeroA_iff w)

theorem zeroDBC_iff (w : Word32) : (zeroD w && zeroBC w) = true ↔ w &&& 0xF0FFFF = 0 :=
  and_iff_joined (zeroD_iff w) (zeroBC_iff w)

theorem zeroDLow_iff (w : Word32) : (zeroD w && zeroLow w) = true ↔ w &&& 0xF000FF = 0 :=
  and_iff_joined (zeroD_iff w) (zeroLow_iff w)

/-- Do all fields of the list name a vector register, being below 8 (R63)? -/
def AllBelowEight (fields : List (BitVec 4)) : Prop := ∀ f ∈ fields, f.toNat < 8

theorem allBelowEight_nil (w : Word32) : AllBelowEight [] ↔ w &&& 0 = 0 := by
  simp [AllBelowEight]

theorem allBelowEight_cons {start : Nat} {rest : List (BitVec 4)} {w m : Word32}
    (h : AllBelowEight rest ↔ w &&& m = 0) :
    AllBelowEight (w.extractLsb' start 4 :: rest) ↔ w &&& (fieldMask (start + 3) 1 ||| m) = 0 := by
  rw [and_or_eq_zero_iff, ← extract_lt_eight_iff, ← h]
  exact List.forall_mem_cons

theorem vectors_d (w : Word32) : AllBelowEight [fieldD w] ↔ w &&& 0x800000 = 0 :=
  allBelowEight_cons (allBelowEight_nil w)

theorem vectors_a (w : Word32) : AllBelowEight [fieldA w] ↔ w &&& 0x080000 = 0 :=
  allBelowEight_cons (allBelowEight_nil w)

theorem vectors_da (w : Word32) : AllBelowEight [fieldD w, fieldA w] ↔ w &&& 0x880000 = 0 :=
  allBelowEight_cons (vectors_a w)

theorem vectors_dab (w : Word32) :
    AllBelowEight [fieldD w, fieldA w, fieldB w] ↔ w &&& 0x888000 = 0 :=
  allBelowEight_cons (allBelowEight_cons (allBelowEight_cons (allBelowEight_nil w)))

theorem vectors_dabc (w : Word32) :
    AllBelowEight [fieldD w, fieldA w, fieldB w, fieldC w] ↔ w &&& 0x888800 = 0 :=
  allBelowEight_cons (allBelowEight_cons (allBelowEight_cons (allBelowEight_cons
    (allBelowEight_nil w))))

/-! ### What the decoder makes of a word with a row's opcode (R71) -/

theorem checked_eq_ok_iff (unused distinct : Bool) (vectors : List (BitVec 4)) (i j : Instr) :
    checked unused vectors distinct i = .ok j ↔
      (unused = true ∧ AllBelowEight vectors ∧ distinct = true) ∧ j = i := by
  have any_iff : vectors.any (fun f => 8 ≤ f.toNat) = true ↔ ¬ AllBelowEight vectors := by
    simp [AllBelowEight]
  simp only [checked, any_iff, eq_comm (a := j)]
  split_ifs <;> simp_all

/-- The checks (2), (3), (4) of R67, which come after the opcode is found in the row. -/
def OpcodeRow.Accepts (r : OpcodeRow) (w : Word32) : Prop :=
  w &&& r.unused = 0 ∧ w &&& r.vectors = 0 ∧ ¬ (r.distinct = true ∧ fieldD w = fieldA w)

/-- The decoder reads `w` as one instruction of the row if the row accepts it, and else as none. -/
def OpcodeRow.Decodes (r : OpcodeRow) (w : Word32) : Prop :=
  ∃ i, (disassemble i).1 = r.mnemonic ∧ ∀ j, decode w = .ok j ↔ r.Accepts w ∧ j = i

/-- The decoder's checks are the row's, so the decoder reads the word by the row. -/
theorem OpcodeRow.Decodes.of_checked {r : OpcodeRow} {w : Word32} {unused distinct : Bool}
    {vectors : List (BitVec 4)}
    (hdec : ∃ i, decode w = checked unused vectors distinct i ∧ (disassemble i).1 = r.mnemonic)
    (hunused : unused = true ↔ w &&& r.unused = 0)
    (hvectors : AllBelowEight vectors ↔ w &&& r.vectors = 0)
    (hdistinct : distinct = true ↔ ¬ (r.distinct = true ∧ fieldD w = fieldA w)) :
    r.Decodes w := by
  obtain ⟨i, hdec, hname⟩ := hdec
  refine ⟨i, hname, fun j => ?_⟩
  rw [hdec, checked_eq_ok_iff, hunused, hvectors, hdistinct, OpcodeRow.Accepts]

/-- A row with at most one destination. -/
theorem OpcodeRow.Decodes.plain {op : BitVec 8} {mnemonic : String} {maskU maskV w : Word32}
    {unused : Bool} {vectors : List (BitVec 4)}
    (hdec : ∃ i, decode w = checked unused vectors true i ∧ (disassemble i).1 = mnemonic)
    (hunused : unused = true ↔ w &&& maskU = 0)
    (hvectors : AllBelowEight vectors ↔ w &&& maskV = 0) :
    OpcodeRow.Decodes ⟨op, mnemonic, maskU, maskV, false⟩ w :=
  .of_checked hdec hunused hvectors (by simp)

/-- A row with two destinations. -/
theorem OpcodeRow.Decodes.distinct {op : BitVec 8} {mnemonic : String} {maskU maskV w : Word32}
    {unused : Bool} {vectors : List (BitVec 4)}
    (hdec : ∃ i, decode w = checked unused vectors (fieldD w != fieldA w) i ∧
      (disassemble i).1 = mnemonic)
    (hunused : unused = true ↔ w &&& maskU = 0)
    (hvectors : AllBelowEight vectors ↔ w &&& maskV = 0) :
    OpcodeRow.Decodes ⟨op, mnemonic, maskU, maskV, true⟩ w :=
  .of_checked hdec hunused hvectors (by simp)

/-- The sequencer and control rows, each with the checks the decoder makes under its opcode. -/
theorem controlRows_decode (w : Word32) :
    ∀ r ∈ controlRows, fieldOp w = r.op → r.Decodes w := by
  simp only [controlRows, List.forall_mem_cons]
  refine ⟨
    fun h => .plain ?_ (zeroN_iff w) (allBelowEight_nil w),
    fun h => .plain ?_ (zeroN_iff w) (allBelowEight_nil w),
    fun h => .plain ?_ (zeroA_iff w) (allBelowEight_nil w),
    fun h => .plain ?_ (zeroBC_iff w) (allBelowEight_nil w),
    fun h => .plain ?_ (zeroC_iff w) (allBelowEight_nil w),
    fun h => .plain ?_ (zeroC_iff w) (allBelowEight_nil w),
    fun h => .plain ?_ (no_unused_iff w) (allBelowEight_nil w),
    fun h => .plain ?_ (zeroDA_iff w) (allBelowEight_nil w),
    fun h => .plain ?_ (no_unused_iff w) (allBelowEight_nil w),
    fun h => .plain ?_ (no_unused_iff w) (allBelowEight_nil w),
    fun h => .plain ?_ (no_unused_iff w) (allBelowEight_nil w),
    fun h => .plain ?_ (no_unused_iff w) (allBelowEight_nil w),
    fun h => .plain ?_ (no_unused_iff w) (allBelowEight_nil w),
    fun h => .plain ?_ (zeroA_iff w) (allBelowEight_nil w),
    fun h => .plain ?_ (zeroD_iff w) (allBelowEight_nil w),
    List.forall_mem_nil _⟩
  all_goals
    rw [decode, h]
    exact ⟨_, rfl, rfl⟩

/-- The field scalar rows, each with the checks the decoder makes under its opcode. -/
theorem fieldRows_decode (w : Word32) :
    ∀ r ∈ fieldRows, fieldOp w = r.op → r.Decodes w := by
  simp only [fieldRows, List.forall_mem_cons]
  refine ⟨
    fun h => .plain ?_ (zeroN_iff w) (allBelowEight_nil w),
    fun h => .plain ?_ (zeroC_iff w) (allBelowEight_nil w),
    fun h => .plain ?_ (zeroC_iff w) (allBelowEight_nil w),
    fun h => .plain ?_ (zeroBC_iff w) (allBelowEight_nil w),
    fun h => .plain ?_ (zeroBC_iff w) (allBelowEight_nil w),
    fun h => .plain ?_ (zeroBC_iff w) (allBelowEight_nil w),
    List.forall_mem_nil _⟩
  all_goals
    rw [decode, h]
    exact ⟨_, rfl, rfl⟩

/-- The vector and polynomial rows, each with the checks the decoder makes under its opcode. -/
theorem vectorRows_decode (w : Word32) :
    ∀ r ∈ vectorRows, fieldOp w = r.op → r.Decodes w := by
  simp only [vectorRows, List.forall_mem_cons]
  refine ⟨
    fun h => .plain ?_ (zeroC_iff w) (vectors_d w),
    fun h => .plain ?_ (zeroBC_iff w) (vectors_d w),
    fun h => .plain ?_ (zeroBC_iff w) (vectors_a w),
    fun h => .plain ?_ (zeroC_iff w) (vectors_a w),
    fun h => .plain ?_ (zeroBC_iff w) (vectors_da w),
    fun h => .plain ?_ (zeroBC_iff w) (vectors_da w),
    fun h => .plain ?_ (zeroC_iff w) (vectors_d w),
    fun h => .plain ?_ (zeroBC_iff w) (vectors_a w),
    fun h => .plain ?_ (zeroC_iff w) (vectors_a w),
    fun h => .plain ?_ (zeroBC_iff w) (vectors_a w),
    fun h => .plain ?_ (zeroC_iff w) (vectors_dab w),
    fun h => .plain ?_ (zeroC_iff w) (vectors_dab w),
    fun h => .plain ?_ (zeroC_iff w) (vectors_da w),
    fun h => .plain ?_ (zeroLow_iff w) (vectors_da w),
    fun h => .distinct ?_ (zeroLow_iff w) (vectors_dabc w),
    fun h => .plain ?_ (zeroC_iff w) (vectors_a w),
    List.forall_mem_nil _⟩
  all_goals
    rw [decode, h]
    exact ⟨_, rfl, rfl⟩

/-- The encoder and decoder rows, each with the checks the decoder makes under its opcode. -/
theorem reedSolomonRows_decode (w : Word32) :
    ∀ r ∈ reedSolomonRows, fieldOp w = r.op → r.Decodes w := by
  simp only [reedSolomonRows, List.forall_mem_cons]
  refine ⟨
    fun h => .plain ?_ (zeroDBC_iff w) (allBelowEight_nil w),
    fun h => .plain ?_ (zeroBC_iff w) (vectors_d w),
    fun h => .plain ?_ (zeroDLow_iff w) (allBelowEight_nil w),
    fun h => .plain ?_ (zeroLow_iff w) (vectors_d w),
    fun h => .distinct ?_ (zeroLow_iff w) (vectors_dab w),
    fun h => .plain ?_ (zeroBC_iff w) (vectors_da w),
    fun h => .plain ?_ (zeroC_iff w) (vectors_dab w),
    fun h => .plain ?_ (zeroLow_iff w) (vectors_da w),
    fun h => .plain ?_ (zeroLow_iff w) (allBelowEight_nil w),
    List.forall_mem_nil _⟩
  all_goals
    rw [decode, h]
    exact ⟨_, rfl, rfl⟩

/-- The decoder reads a word by the row with its opcode. -/
theorem opcodeRow_decodes {r : OpcodeRow} {w : Word32} (hr : r ∈ opcodeRows)
    (hop : fieldOp w = r.op) : r.Decodes w := by
  simp only [opcodeRows, List.mem_append] at hr
  obtain ((hr | hr) | hr) | hr := hr
  · exact controlRows_decode w r hr hop
  · exact fieldRows_decode w r hr hop
  · exact vectorRows_decode w r hr hop
  · exact reedSolomonRows_decode w r hr hop

/-- The opcodes of R65 are the three runs `0x01`..`0x15`, `0x20`..`0x32` and `0x40`..`0x45`. -/
theorem opcodes_eq_runs : opcodeRows.map (fun row => row.op.toNat) =
    List.range' 0x01 0x15 ++ List.range' 0x20 0x13 ++ List.range' 0x40 0x06 := rfl

/-- The opcodes of no row (R67 case 1). -/
theorem opcode_in_no_row_iff (op : BitVec 8) : (∀ row ∈ opcodeRows, row.op ≠ op) ↔
    op.toNat = 0x00 ∨ (0x16 ≤ op.toNat ∧ op.toNat ≤ 0x1F) ∨ (0x33 ≤ op.toNat ∧ op.toNat ≤ 0x3F) ∨
      0x46 ≤ op.toNat := by
  have not_mem : (∀ row ∈ opcodeRows, row.op ≠ op) ↔
      op.toNat ∉ opcodeRows.map (fun row => row.op.toNat) := by
    simp only [List.mem_map, not_exists, not_and, BitVec.toNat_inj, ne_eq]
  rw [not_mem, opcodes_eq_runs]
  simp only [List.mem_append, List.mem_range'_1]
  omega

theorem decode_of_opcode_in_no_row {w : Word32} (h : ∀ row ∈ opcodeRows, row.op ≠ fieldOp w) :
    decode w = .error .noSuchOpcode := by
  have hop := (opcode_in_no_row_iff (fieldOp w)).1 h
  unfold decode
  split
  case h_47 => rfl
  all_goals omega

/-- The row whose instruction a legal word is, by its opcode. -/
theorem exists_row_of_decode_ok {w : Word32} {i : Instr} (h : decode w = .ok i) :
    ∃ row ∈ opcodeRows, row.op = fieldOp w ∧ row.Accepts w ∧ (disassemble i).1 = row.mnemonic := by
  by_cases hrow : ∃ row ∈ opcodeRows, row.op = fieldOp w
  · obtain ⟨row, hmem, hop⟩ := hrow
    obtain ⟨_, hname, hok⟩ := opcodeRow_decodes hmem hop.symm
    obtain ⟨hacc, rfl⟩ := (hok i).1 h
    exact ⟨row, hmem, hop, hacc, hname⟩
  · rw [decode_of_opcode_in_no_row (fun row hmem hop => hrow ⟨row, hmem, hop⟩)] at h
    cases h

theorem exists_decode_error_iff (w : Word32) :
    (∃ e, decode w = .error e) ↔ ∀ i, decode w ≠ .ok i := by
  cases decode w <;> simp

/-- Under the opcode of a row, a word is illegal exactly when the row does not accept it. -/
theorem exists_decode_error_iff_of_row {r : OpcodeRow} {w : Word32} (hr : r ∈ opcodeRows)
    (hop : r.op = fieldOp w) : (∃ e, decode w = .error e) ↔ ¬ r.Accepts w := by
  obtain ⟨_, -, hok⟩ := opcodeRow_decodes hr hop.symm
  rw [exists_decode_error_iff]
  exact ⟨fun hno hacc => hno _ ((hok _).2 ⟨hacc, rfl⟩), fun hacc i hi => hacc ((hok i).1 hi).1⟩

theorem OpcodeRow.not_accepts_iff (r : OpcodeRow) (w : Word32) :
    ¬ r.Accepts w ↔ w &&& r.unused ≠ 0 ∨ w &&& r.vectors ≠ 0 ∨
      (r.distinct = true ∧ fieldD w = fieldA w) := by
  rw [OpcodeRow.Accepts]
  tauto

theorem distinct_iff_pdiv_or_rseuc : ∀ row ∈ opcodeRows,
    row.distinct = true ↔ row.mnemonic = "PDIV" ∨ row.mnemonic = "RSEUC" := by decide

/-! ### Match and mask (R66) -/

/-- A row's mask holds the opcode bits, and below them the unused bits and the vector bits. -/
theorem opcodeRow_mask_parts : ∀ r ∈ opcodeRows,
    fieldOp r.mask = BitVec.allOnes 8 ∧ r.mask &&& 0xFFFFFF = r.unused ||| r.vectors := by decide

theorem eq_pattern_iff (r : OpcodeRow) (w : Word32) :
    w = r.pattern ↔ fieldOp w = r.op ∧ w &&& 0xFFFFFF = 0 := by
  rw [show w &&& 0xFFFFFF = 0 ↔ w.extractLsb' 0 24 = 0 from (extract_eq_zero_iff w 0 24).symm]
  constructor
  · rintro rfl
    exact ⟨extract_append r.op 0#24, BitVec.extractLsb'_append_eq_right⟩
  · rintro ⟨hop, hlow⟩
    calc w = w.extractLsb' 24 8 ++ w.extractLsb' 0 24 :=
          (BitVec.extractLsb'_append_extractLsb' (x := w) (w := 8) (len := 24)).symm
      _ = r.pattern := by rw [hlow, OpcodeRow.pattern, ← hop]; rfl

theorem matchesWord_iff {r : OpcodeRow} (hr : r ∈ opcodeRows) (w : Word32) :
    r.matchesWord w = true ↔ fieldOp w = r.op ∧ r.Accepts w := by
  obtain ⟨htop, hlow⟩ := opcodeRow_mask_parts r hr
  have hop : fieldOp (w &&& r.mask) = fieldOp w := by
    rw [fieldOp, BitVec.extractLsb'_and]
    exact (congrArg (w.extractLsb' 24 8 &&& ·) htop).trans BitVec.and_allOnes
  have hmatch : w &&& r.mask = r.pattern ↔
      fieldOp w = r.op ∧ w &&& r.unused = 0 ∧ w &&& r.vectors = 0 := by
    rw [eq_pattern_iff, hop, BitVec.and_assoc, hlow, and_or_eq_zero_iff]
  simp only [OpcodeRow.matchesWord, OpcodeRow.Accepts, Bool.and_eq_true, beq_iff_eq, hmatch,
    Bool.not_eq_true', Bool.and_eq_false_iff]
  grind

/-- A mnemonic names one row (R70). -/
theorem mnemonics_nodup : (opcodeRows.map OpcodeRow.mnemonic).Nodup := by decide

/-! ### The illegal word at fetch (R67, R80) -/

theorem fetch_of_decode_error {s : State} {e : DecodeError} (hpc : s.pc.toNat < 1024)
    (h : decode (s.readImem s.pc.toNat) = .error e) :
    s.fetch = .error ⟨.illegalInstruction, s.readImem s.pc.toNat⟩ := by
  unfold State.fetch
  rw [if_neg (Nat.not_le.2 hpc), h]

theorem step_eq_trap_of_fetch_error {s : State} {t : Trap} (hrun : s.runState = .run)
    (hqueue : s.hostQueue = []) (h : s.fetch = .error t) : step s = .next (s.trap t) := by
  rw [step, State.agentStep, hqueue]
  simp only [State.sequencerStep, hrun, h]

/-! ### The statements -/

/-- Settles O3: a row's match and mask are its opcode and its checks, by which the decoder reads the
word; a row is found again from its mnemonic. -/
theorem legalWordsMatchTheirRow : Obligations.LegalWordsMatchTheirRow := by
  unfold Obligations.LegalWordsMatchTheirRow
  refine ⟨fun w row hrow => ?_, fun w i h => ?_⟩
  · rw [matchesWord_iff hrow]
    constructor
    · rintro ⟨hop, hacc⟩
      obtain ⟨i, hname, hok⟩ := opcodeRow_decodes hrow hop
      exact ⟨i, (hok i).2 ⟨hacc, rfl⟩, hname⟩
    · rintro ⟨i, hi, hname⟩
      obtain ⟨row', hrow', hop, hacc, hname'⟩ := exists_row_of_decode_ok hi
      obtain rfl : row = row' :=
        List.inj_on_of_nodup_map mnemonics_nodup hrow hrow' (hname.symm.trans hname')
      exact ⟨hop.symm, hacc⟩
  · obtain ⟨row, hrow, hop, hacc, -⟩ := exists_row_of_decode_ok h
    exact ⟨row, hrow, (matchesWord_iff hrow w).2 ⟨hop.symm, hacc⟩⟩

/-- Settles O4: under a row's opcode a word is illegal when the row does not accept it, and under any
other opcode always; fetch then raises cause 1 with the word. -/
theorem illegalWordsTrap : Obligations.IllegalWordsTrap := by
  unfold Obligations.IllegalWordsTrap
  refine ⟨fun w => ⟨fun herr => ?_, ?_⟩, opcode_in_no_row_iff, distinct_iff_pdiv_or_rseuc,
    fun s e hrun hqueue hpc h =>
      step_eq_trap_of_fetch_error hrun hqueue (fetch_of_decode_error hpc h)⟩
  · by_cases hrow : ∃ row ∈ opcodeRows, row.op = fieldOp w
    · obtain ⟨row, hmem, hop⟩ := hrow
      have hacc := (exists_decode_error_iff_of_row hmem hop).1 herr
      exact .inr ⟨row, hmem, hop, (row.not_accepts_iff w).1 hacc⟩
    · exact .inl fun row hmem hop => hrow ⟨row, hmem, hop⟩
  · rintro (hno | ⟨row, hmem, hop, hbad⟩)
    · exact ⟨_, decode_of_opcode_in_no_row hno⟩
    · exact (exists_decode_error_iff_of_row hmem hop).2 ((row.not_accepts_iff w).2 hbad)

end Sys2Proof
end

section
/-! PROOFS. The EXP table (41_gf_scalar.md R117): its entries are the iterates of the doubling step from
1, and on a legal field they run through the non-zero elements with period `N - 1`. -/

namespace Sys2Proof.Machine

/-! ### The list `T` of R117, for every `P` and `N` -/

/-- `α^i` as R117 computes it: `i` doublings of 1. -/
def expEntry (P N i : Nat) : Nat := (expStep P N)^[i] 1

@[simp] theorem expEntry_zero (P N : Nat) : expEntry P N 0 = 1 := rfl

theorem expEntry_succ (P N i : Nat) : expEntry P N (i + 1) = expStep P N (expEntry P N i) :=
  Function.iterate_succ_apply' (expStep P N) i 1

theorem expEntry_add (P N i j : Nat) : expEntry P N (i + j) = (expStep P N)^[i] (expEntry P N j) :=
  Function.iterate_add_apply (expStep P N) i j 1

@[simp] theorem length_powerList (P N count x : Nat) : (powerList P N count x).length = count := by
  induction count generalizing x with
  | zero => rfl
  | succ count ih => rw [powerList, List.length_cons, ih]

theorem getElem?_powerList (P N : Nat) {i count : Nat} (hi : i < count) (x : Nat) :
    (powerList P N count x)[i]? = some ((expStep P N)^[i] x) := by
  induction i generalizing count x with
  | zero =>
    cases count with
    | zero => cases hi
    | succ count => rfl
  | succ i ih =>
    cases count with
    | zero => cases hi
    | succ count => exact ih (Nat.lt_of_succ_lt_succ hi) (expStep P N x)

@[simp] theorem length_expList (P N : Nat) : (expList P N).length = N := length_powerList P N N 1

theorem getElem?_expList (P N : Nat) {i : Nat} (hi : i < N) :
    (expList P N)[i]? = some (expEntry P N i) := getElem?_powerList P N hi 1

/-! ### The doubling step -/

@[simp] theorem expStep_zero {P N : Nat} (hN : 0 < N) : expStep P N 0 = 0 :=
  if_neg (by omega)

theorem expStep_lt {P N : Nat} (hN : 0 < N) (x : Nat) : expStep P N x < N := by
  unfold expStep
  split
  · have := Nat.and_le_right (n := x * 2 ^^^ P) (m := N - 1)
    omega
  · omega

theorem xor_mul_two (x y : Nat) : (x ^^^ y) * 2 = x * 2 ^^^ y * 2 := by
  simpa [Nat.shiftLeft_eq] using Nat.shiftLeft_xor_distrib (i := 1) (a := x) (b := y)

/-- The comparison of R117 tests bit `m` of the doubled element, and the mask cuts off that bit. -/
theorem expStep_eq_xor_mod {P m x : Nat} (hx : x < 2 ^ m) :
    expStep P (2 ^ m) x = (x * 2 ^^^ if (x * 2).testBit m then P else 0) % 2 ^ m := by
  unfold expStep
  by_cases h : 2 ^ m ≤ x * 2
  · have hbit : (x * 2).testBit m = true :=
      Nat.testBit_of_two_pow_le_and_two_pow_add_one_gt h (by rw [Nat.pow_succ]; omega)
    rw [if_pos h, if_pos hbit, Nat.and_two_pow_sub_one_eq_mod]
  · have hlt := Nat.lt_of_not_le h
    rw [if_neg h, Nat.testBit_lt_two_pow hlt, if_neg Bool.false_ne_true, Nat.xor_zero,
      Nat.mod_eq_of_lt hlt]

/-- Doubling is linear over XOR. -/
theorem expStep_xor {P m x y : Nat} (hx : x < 2 ^ m) (hy : y < 2 ^ m) :
    expStep P (2 ^ m) (x ^^^ y) = expStep P (2 ^ m) x ^^^ expStep P (2 ^ m) y := by
  rw [expStep_eq_xor_mod hx, expStep_eq_xor_mod hy, expStep_eq_xor_mod (Nat.xor_lt_two_pow hx hy),
    ← Nat.xor_mod_two_pow, xor_mul_two, Nat.testBit_xor]
  cases (x * 2).testBit m <;> cases (y * 2).testBit m <;>
    simp [Nat.xor_comm, Nat.xor_left_comm]

theorem iterate_expStep_lt {P N x : Nat} (hx : x < N) (i : Nat) : (expStep P N)^[i] x < N := by
  cases i with
  | zero => exact hx
  | succ i =>
    rw [Function.iterate_succ_apply']
    exact expStep_lt (by omega) _

theorem iterate_expStep_xor {P m x y : Nat} (hx : x < 2 ^ m) (hy : y < 2 ^ m) (i : Nat) :
    (expStep P (2 ^ m))^[i] (x ^^^ y) = (expStep P (2 ^ m))^[i] x ^^^ (expStep P (2 ^ m))^[i] y := by
  induction i with
  | zero => rfl
  | succ i ih =>
    simp only [Function.iterate_succ_apply']
    rw [ih, expStep_xor (iterate_expStep_lt hx i) (iterate_expStep_lt hy i)]

/-- Two numbers with `m` as their highest bit differ in lower bits alone, so the mask of R117 changes
nothing on a legal field. -/
theorem xor_lt_of_same_top_bit {m x y : Nat} (hx : 2 ^ m ≤ x) (hx2 : x < 2 * 2 ^ m) (hy : 2 ^ m ≤ y)
    (hy2 : y < 2 * 2 ^ m) : x ^^^ y < 2 ^ m := by
  have top_bit : ∀ {z}, 2 ^ m ≤ z → z < 2 * 2 ^ m → z / 2 ^ m = 1 := fun h h2 =>
    Nat.div_eq_of_lt_le (by omega) (by omega)
  refine Nat.lt_of_div_eq_zero (Nat.two_pow_pos m) ?_
  rw [Nat.xor_div_two_pow, top_bit hx hx2, top_bit hy hy2, Nat.xor_self]

/-! ### The list on a legal field -/

theorem LegalField.exists_size {P N : Nat} (h : LegalField P N) : ∃ m, 1 ≤ m ∧ m ≤ 12 ∧ N = 2 ^ m :=
  h.1

theorem LegalField.two_le {P N : Nat} (h : LegalField P N) : 2 ≤ N := by
  obtain ⟨m, hm, -, rfl⟩ := h.exists_size
  exact Nat.pow_le_pow_right (n := 2) (by decide) hm

theorem LegalField.le_4096 {P N : Nat} (h : LegalField P N) : N ≤ 4096 := by
  obtain ⟨m, -, hm, rfl⟩ := h.exists_size
  exact Nat.pow_le_pow_right (n := 2) (by decide) hm

theorem LegalField.expEntry_lt {P N : Nat} (h : LegalField P N) (i : Nat) : expEntry P N i < N :=
  iterate_expStep_lt h.two_le i

/-- "2 of full order" (R116): 1 comes back after `N - 1` doublings and not before. -/
theorem LegalField.minimalPeriod_eq {P N : Nat} (h : LegalField P N) :
    (expStep P N).minimalPeriod 1 = N - 1 := by
  have hN := h.two_le
  obtain ⟨-, -, -, hlast, hfirst⟩ := h
  have hperiodic : (expStep P N).IsPeriodicPt (N - 1) 1 :=
    Option.some.inj ((getElem?_expList P N (by omega)).symm.trans hlast)
  have hle := hperiodic.minimalPeriod_le (by omega)
  have hpos := hperiodic.minimalPeriod_pos (by omega)
  by_contra hne
  refine hfirst _ hpos (by omega) ?_
  rw [getElem?_expList P N (by omega)]
  exact congrArg some (Function.isPeriodicPt_minimalPeriod (expStep P N) 1)

theorem LegalField.expEntry_mod {P N : Nat} (h : LegalField P N) (i : Nat) :
    expEntry P N (i % (N - 1)) = expEntry P N i := by
  rw [← h.minimalPeriod_eq]
  exact Function.iterate_mod_minimalPeriod_eq

theorem LegalField.expEntry_inj {P N i j : Nat} (h : LegalField P N) (hi : i < N - 1)
    (hj : j < N - 1) (he : expEntry P N i = expEntry P N j) : i = j := by
  rw [← h.minimalPeriod_eq] at hi hj
  exact Function.iterate_injOn_Iio_minimalPeriod hi hj he

/-- 0 is a fixed point of the doubling step, and from every entry the list comes back to 1. -/
theorem LegalField.expEntry_ne_zero {P N : Nat} (h : LegalField P N) (i : Nat) :
    expEntry P N i ≠ 0 := by
  intro hzero
  have hN := h.two_le
  have hr : i % (N - 1) < N - 1 := Nat.mod_lt _ (by omega)
  have hone : expEntry P N (N - 1) = 1 := by rw [← h.expEntry_mod, Nat.mod_self, expEntry_zero]
  rw [← h.expEntry_mod] at hzero
  rw [show N - 1 = N - 1 - i % (N - 1) + i % (N - 1) by omega, expEntry_add, hzero,
    Function.iterate_fixed (expStep_zero (by omega))] at hone
  exact zero_ne_one hone

/-- `N - 1` different entries among the `N - 1` non-zero elements: each element is one of them. -/
theorem LegalField.exists_expEntry_eq {P N a : Nat} (h : LegalField P N) (ha : 1 ≤ a) (haN : a < N) :
    ∃ i, i < N - 1 ∧ expEntry P N i = a := by
  have hsurj : Set.SurjOn (expEntry P N) (Finset.range (N - 1)) (Finset.Ico 1 N) := by
    refine Finset.surjOn_of_injOn_of_card_le (expEntry P N) (fun i _ => ?_) (fun i hi j hj he => ?_)
      (by simp)
    · exact Finset.mem_coe.2 (Finset.mem_Ico.2
        ⟨Nat.one_le_iff_ne_zero.2 (h.expEntry_ne_zero i), h.expEntry_lt i⟩)
    · exact h.expEntry_inj (by simpa using hi) (by simpa using hj) he
  obtain ⟨i, hi, rfl⟩ := hsurj (Finset.mem_coe.2 (Finset.mem_Ico.2 ⟨ha, haN⟩))
  exact ⟨i, by simpa using hi, rfl⟩

theorem LegalField.xor_prim_lt {P N x : Nat} (h : LegalField P N) (hx : x < N) (hx2 : N ≤ x * 2) :
    x * 2 ^^^ P < N := by
  obtain ⟨⟨m, -, -, rfl⟩, hP, hP2, -⟩ := h
  exact xor_lt_of_same_top_bit hx2 (by omega) hP hP2

theorem LegalField.and_mask_of_lt {P N x : Nat} (h : LegalField P N) (hx : x < N) :
    x &&& (N - 1) = x := by
  obtain ⟨m, -, -, rfl⟩ := h.exists_size
  exact Nat.and_two_pow_sub_one_of_lt_two_pow hx

/-! ### The statement -/

/-- Settles O23: the list is that of the iterates of the doubling step; on a legal field 1 has period
`N - 1` under it, so that the entries below `N - 1` are different and are all non-zero elements. -/
theorem expTableContents : Obligations.ExpTableContents := by
  unfold Obligations.ExpTableContents
  intro P N
  refine ⟨length_expList P N, fun hN => getElem?_expList P N hN, fun i x hi hx => ?_, fun h => ?_⟩
  · obtain rfl : expEntry P N i = x :=
      Option.some.inj ((getElem?_expList P N (by omega)).symm.trans hx)
    rw [getElem?_expList P N hi, expEntry_succ, expStep]
  have hN := h.two_le
  refine ⟨fun h2 => ?_, ?_, fun a ha haN => ?_, fun i j hi hj he => ?_, fun x hx hx2 => ?_⟩
  · rw [getElem?_expList P N (by omega), expEntry_succ, expEntry_zero, expStep, if_neg (by omega)]
  · rw [getElem?_expList P N (by omega), ← h.expEntry_mod, Nat.mod_self, expEntry_zero]
  · obtain ⟨i, hi, rfl⟩ := h.exists_expEntry_eq ha haN
    exact ⟨i, hi, getElem?_expList P N (by omega)⟩
  · rw [getElem?_expList P N (by omega), getElem?_expList P N (by omega)] at he
    exact h.expEntry_inj hi hj (Option.some.inj he)
  · exact h.and_mask_of_lt (h.xor_prim_lt hx hx2)

end Sys2Proof.Machine
end

section
/-! PROOFS. The field arithmetic on a legal field (41_gf_scalar.md R112 to R115, R118, R124). Every
non-zero element is a power `alphaPow f k`, with `k` counted modulo `N - 1`; on powers a product adds
exponents, and multiplying by `α^i` is `i` doublings, which are linear over addition. -/

namespace Sys2Proof.Machine

/-! ### The LOG table (R118) -/

@[simp] theorem length_logFill (l : List Nat) (i : Nat) (table : List Nat) :
    (logFill l i table).length = table.length := by
  induction l generalizing i table with
  | nil => rfl
  | cons t rest ih => rw [logFill, ih, List.length_set]

/-- A place no entry of `T` names keeps what it holds. -/
theorem getElem?_logFill_of_not_mem {l : List Nat} {a : Nat} (ha : a ∉ l) (i : Nat)
    (table : List Nat) : (logFill l i table)[a]? = table[a]? := by
  induction l generalizing i table with
  | nil => rfl
  | cons t rest ih =>
    obtain ⟨hne, hrest⟩ := not_or.1 (mt List.mem_cons.2 ha)
    rw [logFill, ih hrest, List.getElem?_set_ne (Ne.symm hne)]

/-- A place named by one entry of `T` holds that entry's index. -/
theorem getElem?_logFill {l : List Nat} {k a : Nat} (hl : l.Nodup) (hk : l[k]? = some a) (i : Nat)
    {table : List Nat} (ha : a < table.length) : (logFill l i table)[a]? = some (i + k) := by
  induction l generalizing k i table with
  | nil => cases hk
  | cons t rest ih =>
    obtain ⟨hnot, hrest⟩ := List.nodup_cons.1 hl
    rw [logFill]
    cases k with
    | zero =>
      obtain rfl : t = a := Option.some.inj hk
      rw [getElem?_logFill_of_not_mem hnot, List.getElem?_set_self ha, Nat.add_zero]
    | succ k =>
      rw [ih hrest hk (i + 1) (by simpa using ha), Nat.add_right_comm, Nat.add_assoc]

@[simp] theorem length_logList (P N : Nat) : (logList P N).length = N := by
  rw [logList, length_logFill, List.length_replicate]

theorem getElem?_take_expList (P N : Nat) {k : Nat} (hk : k < N - 1) :
    ((expList P N).take (N - 1))[k]? = some (expEntry P N k) := by
  rw [List.getElem?_take_of_lt hk, getElem?_expList P N (by omega)]

theorem LegalField.nodup_take_expList {P N : Nat} (h : LegalField P N) :
    ((expList P N).take (N - 1)).Nodup := by
  rw [List.nodup_iff_getElem?_ne_getElem?]
  intro i j hij hj he
  have hjN : j < N - 1 := by
    rw [List.length_take, length_expList] at hj
    omega
  rw [getElem?_take_expList P N (by omega), getElem?_take_expList P N hjN] at he
  exact absurd (h.expEntry_inj (by omega) hjN (Option.some.inj he)) (by omega)

/-- `LOG[α^k] = k` up to `N - 2`. -/
theorem LegalField.getElem?_logList {P N k : Nat} (h : LegalField P N) (hk : k < N - 1) :
    (logList P N)[expEntry P N k]? = some k := by
  have hlt : expEntry P N k < (List.replicate N 0).length := by
    rw [List.length_replicate]
    exact h.expEntry_lt k
  rw [logList, getElem?_logFill h.nodup_take_expList (getElem?_take_expList P N hk) 0 hlt,
    Nat.zero_add]

/-- The filler of `LOG[0]`: no power of α is zero. -/
theorem LegalField.getElem?_logList_zero {P N : Nat} (h : LegalField P N) :
    (logList P N)[0]? = some 0 := by
  have hN := h.two_le
  have hzero : 0 ∉ (expList P N).take (N - 1) := fun hmem => by
    obtain ⟨i, hi⟩ := List.mem_iff_getElem?.1 (List.mem_of_mem_take hmem)
    have hiN : i < N := by simpa using (List.getElem?_eq_some_iff.1 hi).1
    rw [getElem?_expList P N hiN] at hi
    exact h.expEntry_ne_zero i (Option.some.inj hi)
  rw [logList, getElem?_logFill_of_not_mem hzero, List.getElem?_replicate_of_lt (by omega)]

/-! ### Reading the tables of a built field -/

@[simp] theorem size_builtField (P N b : Nat) : (builtField P N b).size = N := rfl

theorem getElem?_toTable {l : List Nat} {i n : Nat} (h : l[i]? = some n) :
    (toTable l)[i]? = some (BitVec.ofNat 12 n) := by
  rw [toTable, List.getElem?_map, h, Option.map_some]

/-- The entries of a legal field are below 4096, so the 12 bits of R28 hold them. -/
theorem LegalField.toNat_expAt {P N : Nat} (h : LegalField P N) (b : Nat) {i : Nat} (hi : i < N) :
    (expAt (builtField P N b) i).toNat = expEntry P N i := by
  have hlt := h.expEntry_lt i
  have hN := h.le_4096
  have hread : (builtField P N b).exp[i]? = some (BitVec.ofNat 12 (expEntry P N i)) :=
    getElem?_toTable (getElem?_expList P N hi)
  rw [expAt, hread, Option.getD_some, BitVec.toNat_setWidth, BitVec.toNat_ofNat]
  omega

theorem LegalField.toNat_alphaPow {P N : Nat} (h : LegalField P N) (b k : Nat) :
    (alphaPow (builtField P N b) k).toNat = expEntry P N k := by
  have hN := h.two_le
  have hr : k % (N - 1) < N - 1 := Nat.mod_lt _ (by omega)
  rw [alphaPow, size_builtField, h.toNat_expAt b (by omega), h.expEntry_mod]

/-- `EXP` as it stands holds the powers, its last entry included (R117). -/
theorem LegalField.expAt_eq_alphaPow {P N : Nat} (h : LegalField P N) (b : Nat) {i : Nat}
    (hi : i < N) : expAt (builtField P N b) i = alphaPow (builtField P N b) i :=
  BitVec.eq_of_toNat_eq ((h.toNat_expAt b hi).trans (h.toNat_alphaPow b i).symm)

theorem LegalField.logAt_of_getElem? {P N : Nat} (h : LegalField P N) (b : Nat) {x : Word} {k : Nat}
    (hk : k < N) (hx : (logList P N)[x.toNat]? = some k) : logAt (builtField P N b) x = k := by
  have hN := h.le_4096
  have hread : (builtField P N b).log[x.toNat]? = some (BitVec.ofNat 12 k) := getElem?_toTable hx
  rw [logAt, hread, Option.getD_some, BitVec.toNat_ofNat]
  omega

theorem LegalField.logAt_zero {P N : Nat} (h : LegalField P N) (b : Nat) :
    logAt (builtField P N b) 0 = 0 :=
  h.logAt_of_getElem? b (by have := h.two_le; omega) h.getElem?_logList_zero

theorem LegalField.logAt_alphaPow {P N : Nat} (h : LegalField P N) (b k : Nat) :
    logAt (builtField P N b) (alphaPow (builtField P N b) k) = k % (N - 1) := by
  have hN := h.two_le
  have hr : k % (N - 1) < N - 1 := Nat.mod_lt _ (by omega)
  refine h.logAt_of_getElem? b (by omega) ?_
  rw [h.toNat_alphaPow, ← h.expEntry_mod]
  exact h.getElem?_logList hr

/-! ### The powers of α -/

section
variable {P N : Nat} (b : Nat)

theorem LegalField.isSymbol_alphaPow (h : LegalField P N) (k : Nat) :
    IsSymbol (builtField P N b) (alphaPow (builtField P N b) k) := by
  rw [IsSymbol, h.toNat_alphaPow]
  exact h.expEntry_lt k

theorem LegalField.alphaPow_ne_zero (h : LegalField P N) (k : Nat) :
    alphaPow (builtField P N b) k ≠ 0 := fun hzero =>
  h.expEntry_ne_zero k ((h.toNat_alphaPow b k).symm.trans (congrArg BitVec.toNat hzero))

theorem LegalField.alphaPow_zero (h : LegalField P N) :
    alphaPow (builtField P N b) 0 = 1 :=
  BitVec.eq_of_toNat_eq (h.toNat_alphaPow b 0)

theorem alphaPow_congr (f : GF) {i j : Nat} (h : i % (f.size - 1) = j % (f.size - 1)) :
    alphaPow f i = alphaPow f j := by rw [alphaPow, h, ← alphaPow]

/-- An element is zero or one of the `N - 1` powers. -/
theorem LegalField.eq_zero_or_alphaPow (h : LegalField P N) {x : Word}
    (hx : IsSymbol (builtField P N b) x) :
    x = 0 ∨ ∃ k, k < N - 1 ∧ x = alphaPow (builtField P N b) k := by
  rcases Nat.eq_zero_or_pos x.toNat with hzero | hpos
  · exact .inl (BitVec.eq_of_toNat_eq hzero)
  · obtain ⟨k, hk, hkx⟩ := h.exists_expEntry_eq hpos hx
    exact .inr ⟨k, hk, BitVec.eq_of_toNat_eq (hkx.symm.trans (h.toNat_alphaPow b k).symm)⟩

/-! ### Products and inverses of powers (R113, R114) -/

@[simp] theorem gfMul_zero_left (f : GF) (y : Word) : gfMul f 0 y = 0 := if_pos (.inl rfl)

@[simp] theorem gfMul_zero_right (f : GF) (x : Word) : gfMul f x 0 = 0 := if_pos (.inr rfl)

theorem gfMul_comm (f : GF) (x y : Word) : gfMul f x y = gfMul f y x := by
  simp only [gfMul, Nat.add_comm (logAt f x), or_comm (a := x = 0)]

theorem LegalField.gfMul_alphaPow (h : LegalField P N) (i j : Nat) :
    gfMul (builtField P N b) (alphaPow (builtField P N b) i) (alphaPow (builtField P N b) j) =
      alphaPow (builtField P N b) (i + j) := by
  rw [gfMul, if_neg (not_or.2 ⟨h.alphaPow_ne_zero b i, h.alphaPow_ne_zero b j⟩), h.logAt_alphaPow,
    h.logAt_alphaPow, size_builtField, ← Nat.add_mod]
  rfl

theorem LegalField.gfInv_alphaPow (h : LegalField P N) {k : Nat} (hk : k < N - 1) :
    gfInv (builtField P N b) (alphaPow (builtField P N b) k) =
      alphaPow (builtField P N b) (N - 1 - k) := by
  rw [gfInv, h.logAt_alphaPow, Nat.mod_eq_of_lt hk, size_builtField,
    h.expAt_eq_alphaPow b (by omega)]

/-- Multiplying by `α^i` is `i` doublings. -/
theorem LegalField.toNat_gfMul_alphaPow (h : LegalField P N) (i : Nat) {y : Word}
    (hy : IsSymbol (builtField P N b) y) :
    (gfMul (builtField P N b) (alphaPow (builtField P N b) i) y).toNat =
      (expStep P N)^[i] y.toNat := by
  rcases h.eq_zero_or_alphaPow b hy with rfl | ⟨j, -, rfl⟩
  · have hN := h.two_le
    rw [gfMul_zero_right]
    exact (Function.iterate_fixed (expStep_zero (by omega)) i).symm
  · rw [h.gfMul_alphaPow, h.toNat_alphaPow, h.toNat_alphaPow, expEntry_add]

/-! ### The field laws (R124) -/

@[simp] theorem gfAdd_self (x : Word) : gfAdd x x = 0 := BitVec.xor_self

theorem LegalField.isSymbol_gfAdd (h : LegalField P N) {x y : Word}
    (hx : IsSymbol (builtField P N b) x) (hy : IsSymbol (builtField P N b) y) :
    IsSymbol (builtField P N b) (gfAdd x y) := by
  obtain ⟨m, -, -, rfl⟩ := h.exists_size
  rw [IsSymbol, gfAdd, BitVec.toNat_xor]
  exact Nat.xor_lt_two_pow hx hy

theorem LegalField.isSymbol_zero (h : LegalField P N) : IsSymbol (builtField P N b) 0 :=
  Nat.lt_of_lt_of_le Nat.zero_lt_two h.two_le

theorem LegalField.isSymbol_gfMul (h : LegalField P N) {x y : Word}
    (hx : IsSymbol (builtField P N b) x) (hy : IsSymbol (builtField P N b) y) :
    IsSymbol (builtField P N b) (gfMul (builtField P N b) x y) := by
  rcases h.eq_zero_or_alphaPow b hx with rfl | ⟨i, -, rfl⟩
  · rw [gfMul_zero_left]
    exact h.isSymbol_zero b
  · rw [IsSymbol, h.toNat_gfMul_alphaPow b i hy]
    exact iterate_expStep_lt hy i

/-- In range even for 0, whose filler logarithm makes the index `N - 1`. -/
theorem LegalField.isSymbol_gfInv (h : LegalField P N) {x : Word}
    (hx : IsSymbol (builtField P N b) x) :
    IsSymbol (builtField P N b) (gfInv (builtField P N b) x) := by
  have hN := h.two_le
  rcases h.eq_zero_or_alphaPow b hx with rfl | ⟨i, hi, rfl⟩
  · rw [gfInv, h.logAt_zero, size_builtField, h.expAt_eq_alphaPow b (by omega)]
    exact h.isSymbol_alphaPow b _
  · rw [h.gfInv_alphaPow b hi]
    exact h.isSymbol_alphaPow b _

theorem LegalField.gfMul_one (h : LegalField P N) {x : Word}
    (hx : IsSymbol (builtField P N b) x) : gfMul (builtField P N b) x 1 = x := by
  rcases h.eq_zero_or_alphaPow b hx with rfl | ⟨i, -, rfl⟩
  · exact gfMul_zero_left _ _
  · rw [← h.alphaPow_zero b, h.gfMul_alphaPow, Nat.add_zero]

theorem LegalField.gfMul_assoc (h : LegalField P N) {x y z : Word}
    (hx : IsSymbol (builtField P N b) x) (hy : IsSymbol (builtField P N b) y)
    (hz : IsSymbol (builtField P N b) z) :
    gfMul (builtField P N b) (gfMul (builtField P N b) x y) z =
      gfMul (builtField P N b) x (gfMul (builtField P N b) y z) := by
  rcases h.eq_zero_or_alphaPow b hx with rfl | ⟨i, -, rfl⟩
  · simp only [gfMul_zero_left]
  rcases h.eq_zero_or_alphaPow b hy with rfl | ⟨j, -, rfl⟩
  · simp only [gfMul_zero_left, gfMul_zero_right]
  rcases h.eq_zero_or_alphaPow b hz with rfl | ⟨k, -, rfl⟩
  · simp only [gfMul_zero_right]
  · simp only [h.gfMul_alphaPow, Nat.add_assoc]

theorem LegalField.gfMul_gfAdd (h : LegalField P N) {x y z : Word}
    (hx : IsSymbol (builtField P N b) x) (hy : IsSymbol (builtField P N b) y)
    (hz : IsSymbol (builtField P N b) z) :
    gfMul (builtField P N b) x (gfAdd y z) =
      gfAdd (gfMul (builtField P N b) x y) (gfMul (builtField P N b) x z) := by
  rcases h.eq_zero_or_alphaPow b hx with rfl | ⟨i, -, rfl⟩
  · simp only [gfMul_zero_left, gfAdd_self]
  · apply BitVec.eq_of_toNat_eq
    rw [h.toNat_gfMul_alphaPow b i (h.isSymbol_gfAdd b hy hz), gfAdd, gfAdd, BitVec.toNat_xor,
      BitVec.toNat_xor, h.toNat_gfMul_alphaPow b i hy, h.toNat_gfMul_alphaPow b i hz]
    obtain ⟨m, -, -, rfl⟩ := h.exists_size
    exact iterate_expStep_xor hy hz i

theorem LegalField.gfMul_gfInv (h : LegalField P N) {x : Word}
    (hx : IsSymbol (builtField P N b) x) (hne : x ≠ 0) :
    gfMul (builtField P N b) x (gfInv (builtField P N b) x) = 1 := by
  obtain rfl | ⟨k, hk, rfl⟩ := h.eq_zero_or_alphaPow b hx
  · exact absurd rfl hne
  · rw [h.gfInv_alphaPow b hk, h.gfMul_alphaPow, show k + (N - 1 - k) = N - 1 by omega,
      ← h.alphaPow_zero b]
    exact alphaPow_congr _ (by rw [size_builtField, Nat.mod_self, Nat.zero_mod])

theorem LegalField.gfMul_eq_zero (h : LegalField P N) {x y : Word}
    (hx : IsSymbol (builtField P N b) x) (hy : IsSymbol (builtField P N b) y)
    (hxy : gfMul (builtField P N b) x y = 0) : x = 0 ∨ y = 0 := by
  obtain rfl | ⟨i, -, rfl⟩ := h.eq_zero_or_alphaPow b hx
  · exact .inl rfl
  obtain rfl | ⟨j, -, rfl⟩ := h.eq_zero_or_alphaPow b hy
  · exact .inr rfl
  · rw [h.gfMul_alphaPow] at hxy
    exact absurd hxy (h.alphaPow_ne_zero b _)

theorem LegalField.gfInv_gfInv (h : LegalField P N) {x : Word}
    (hx : IsSymbol (builtField P N b) x) (hne : x ≠ 0) :
    gfInv (builtField P N b) (gfInv (builtField P N b) x) = x := by
  have hinv := h.isSymbol_gfInv b hx
  have hinv_ne : gfInv (builtField P N b) x ≠ 0 := fun hzero => by
    have hone := h.gfMul_gfInv b hx hne
    rw [hzero, gfMul_zero_right] at hone
    exact absurd hone (by decide)
  calc gfInv (builtField P N b) (gfInv (builtField P N b) x)
      = gfMul (builtField P N b) (gfMul (builtField P N b) x (gfInv (builtField P N b) x))
          (gfInv (builtField P N b) (gfInv (builtField P N b) x)) := by
        rw [h.gfMul_gfInv b hx hne, gfMul_comm, h.gfMul_one b (h.isSymbol_gfInv b hinv)]
    _ = x := by
        rw [h.gfMul_assoc b hx hinv (h.isSymbol_gfInv b hinv), h.gfMul_gfInv b hinv hinv_ne,
          h.gfMul_one b hx]

theorem LegalField.expAt_logAt (h : LegalField P N) {x : Word}
    (hx : IsSymbol (builtField P N b) x) (hne : x ≠ 0) :
    expAt (builtField P N b) (logAt (builtField P N b) x) = x := by
  obtain rfl | ⟨k, hk, rfl⟩ := h.eq_zero_or_alphaPow b hx
  · exact absurd rfl hne
  · rw [h.logAt_alphaPow, Nat.mod_eq_of_lt hk, h.expAt_eq_alphaPow b (by omega)]

theorem LegalField.logAt_expAt (h : LegalField P N) {i : Nat} (hi : i ≤ N - 2) :
    logAt (builtField P N b) (expAt (builtField P N b) i) = i := by
  have hN := h.two_le
  rw [h.expAt_eq_alphaPow b (by omega), h.logAt_alphaPow, Nat.mod_eq_of_lt (by omega)]

end

/-! ### The statement -/

/-- Settles O26: the identities of the tables are those of exponents modulo `N - 1`, and distributivity
is the linearity of doubling. -/
theorem fieldIdentities : Obligations.FieldIdentities := by
  unfold Obligations.FieldIdentities
  intro P N b h f hf x y z hx hy hz
  subst hf
  exact ⟨h.isSymbol_gfAdd b hx hy, h.isSymbol_gfMul b hx hy, h.isSymbol_gfInv b hx,
    h.gfMul_gfInv b hx, gfMul_comm _ x y, gfAdd_self x, h.expAt_logAt b hx,
    fun _ hi => h.logAt_expAt b hi, h.gfMul_assoc b hx hy hz, h.gfMul_gfAdd b hx hy hz,
    h.gfMul_one b hx, gfMul_zero_right _ x, h.gfInv_gfInv b hx, h.gfMul_eq_zero b hx hy⟩

end Sys2Proof.Machine
end

section
/-! PROOFS. The field-ready check (41_gf_scalar.md R110): which instructions begin with it, and that no
other check raises its cause. -/

namespace Sys2Proof.Machine

/-! ### The instructions of R110's list -/

/-- An instruction whose first check is the field's traps there while `VALID = 0`. -/
theorem complete_requireGf_of_not_valid {s : State} (h : s.gfValid = false)
    (k : Unit → Except Trap State) :
    complete s (requireGf s >>= k) = .next (s.trap ⟨.gfNotReady, 0⟩) := by
  rw [(requireGf_eq_error s _).2 ⟨h, rfl⟩, error_bind, complete_error]

theorem requireBlock_of_not_valid {s : State} (h : s.gfValid = false) (a0 n twoS : Nat) :
    requireBlock s a0 n twoS = .error ⟨.gfNotReady, 0⟩ := by
  rw [requireBlock, (requireGf_eq_error s _).2 ⟨h, rfl⟩, error_bind]

theorem requireCorrections_of_not_valid {s : State} (h : s.gfValid = false) (locs mags : List Word)
    (a0 n : Nat) : requireCorrections s locs mags a0 n = .error ⟨.gfNotReady, 0⟩ := by
  rw [requireCorrections, (requireGf_eq_error s _).2 ⟨h, rfl⟩, error_bind]

theorem rsdecPlan_of_not_valid {s : State} (h : s.gfValid = false) (a0 n twoS : Nat) :
    rsdecPlan s a0 n twoS = .error ⟨.gfNotReady, 0⟩ := by
  rw [rsdecPlan, requireBlock_of_not_valid h, error_bind]

/-- The instructions of R110 trap before they read an operand. -/
theorem exec_of_needsField_of_not_valid {i : Instr} {s : State} (hi : needsField i = true)
    (h : s.gfValid = false) : exec i s = .next (s.trap ⟨.gfNotReady, 0⟩) := by
  cases i with
  | gfadd | gfmul | gfinv | gfexp | gflog | pnorm | pmono | pdeg | pcoef | pisz | padd | pmul
  | pscale | pmulm | pdiv | peval | rsgen | pgen | rsenc | rseuc | rschien | rsforn =>
    exact complete_requireGf_of_not_valid h _
  | rssyn d a b c =>
    rw [exec, execRssyn, requireBlock_of_not_valid h, error_bind, complete_error]
  | rscorr d a b c => rw [exec, execRscorr, requireCorrections_of_not_valid h]
  | rsdec d a b c => rw [exec, execRsdec, rsdecPlan_of_not_valid h]
  | nop | halt | li | mov | add | sub | addi | jmp | beq | bne | bltu | ldw | stw | csrr | csrw
  | gfinit | vld | vst | vlen | vget | vmov => cases hi

/-! ### The others -/

theorem causeCode_eq_six_iff (c : Cause) : causeCode c = 6 ↔ c = .gfNotReady := by
  cases c <;> decide

/-- An outcome that is not the trap of R110: no next state is faulted with its cause. -/
def NeverUnready (o : Host.Outcome State Fault Refusal) : Prop :=
  ∀ t, o = .next t → t.runState = .faulted → t.cause ≠ 6

theorem neverUnready_next {u : State} (hu : u.runState ≠ .faulted) : NeverUnready (.next u) := by
  rintro t ⟨rfl⟩ ht
  exact absurd ht hu

theorem neverUnready_complete_ok {s u : State} (hu : u.runState ≠ .faulted) :
    NeverUnready (complete s (.ok u)) := neverUnready_next hu

theorem neverUnready_complete_error {s : State} {e : Trap} (he : e.cause ≠ .gfNotReady) :
    NeverUnready (complete s (.error e)) := by
  rintro t ⟨rfl⟩ -
  exact mt (causeCode_eq_six_iff e.cause).1 he

/-- A check with another cause, and after it an effect that leaves the sequencer running. -/
theorem neverUnready_complete_bind {α : Type} {s : State} {c : Cause} {r : Except Trap α}
    {f : α → State} (hr : ∀ {e}, r = .error e → e.cause = c) (hc : c ≠ .gfNotReady)
    (hf : ∀ a, (f a).runState ≠ .faulted) :
    NeverUnready (complete s (r >>= fun a => .ok (f a))) := by
  cases r with
  | ok a => exact neverUnready_complete_ok (hf a)
  | error e => exact neverUnready_complete_error ((hr rfl).trans_ne hc)

theorem requireWord_cause {a : Nat} {e : Trap} (h : requireWord a = .error e) :
    e.cause = .dmemBounds := by
  obtain ⟨-, rfl⟩ := (requireWord_eq_error a e).1 h
  rfl

theorem requireRun_cause {a n : Nat} {e : Trap} (h : requireRun a n = .error e) :
    e.cause = .dmemBounds := by
  obtain ⟨-, rfl⟩ := (requireRun_eq_error a n e).1 h
  rfl

theorem csrRead_cause {s : State} {n : Nat} {e : Trap} (h : csrRead s n = .error e) :
    e.cause = .csrAccess := by
  obtain ⟨-, rfl⟩ := (csrRead_eq_error s n e).1 h
  rfl

theorem gfConfigCheck_cause {prim size : Nat} {e : Trap} (h : gfConfigCheck prim size = .error e) :
    e.cause = .gfConfig := by
  unfold gfConfigCheck at h
  split_ifs at h
  all_goals
    cases h
    rfl

theorem writeFieldCsr_runState {s t : State} {n : Nat} {d : Word32}
    (h : s.writeFieldCsr n d = some t) : t.runState = s.runState := by
  obtain ⟨-, rfl⟩ | ⟨-, rfl⟩ | ⟨-, rfl⟩ := (writeFieldCsr_eq_some s t n d).1 h <;> rfl

theorem writeRun_runState (s : State) (a : Nat) (l : List Word) :
    (s.writeRun a l).runState = s.runState := by rw [sameButDmem_writeRun l s a]

/-- The instructions outside R110's list: those without a check, and those whose one check is of an
address, a CSR number, the field parameters or a vector index. -/
theorem exec_neverUnready {i : Instr} {s : State} (hi : needsField i = false)
    (running : s.runState ≠ .faulted) : NeverUnready (exec i s) := by
  cases i with
  | nop | li | mov | add | sub | addi | vlen | vmov | jmp => exact neverUnready_next running
  | halt => exact neverUnready_next RunState.noConfusion
  | beq | bne | bltu =>
    refine neverUnready_next ?_
    rwa [branch_eq]
  | ldw | stw => exact neverUnready_complete_bind requireWord_cause Cause.noConfusion fun _ => running
  | csrr => exact neverUnready_complete_bind csrRead_cause Cause.noConfusion fun _ => running
  | gfinit => exact neverUnready_complete_bind gfConfigCheck_cause Cause.noConfusion fun _ => running
  | vld => exact neverUnready_complete_bind requireRun_cause Cause.noConfusion fun _ => running
  | vst =>
    refine neverUnready_complete_bind requireRun_cause Cause.noConfusion fun _ => ?_
    rwa [writeRun_runState]
  | csrw a csr =>
    rw [exec, execCsrw]
    split
    · next u hu => exact neverUnready_complete_ok ((writeFieldCsr_runState hu).trans_ne running)
    · exact neverUnready_complete_error Cause.noConfusion
  | vget d a b =>
    rw [exec, execVget]
    split
    · exact neverUnready_complete_error Cause.noConfusion
    · exact neverUnready_complete_ok running
  | gfadd | gfmul | gfinv | gfexp | gflog | pnorm | pmono | pdeg | pcoef | pisz | padd | pmul
  | pscale | pmulm | pdiv | peval | rsgen | pgen | rsenc | rssyn | rseuc | rschien | rsforn
  | rscorr | rsdec => cases hi

/-! ### The statement -/

/-- Settles O12: the instructions of the list begin with `require_gf`, and the checks of the others have
other causes. -/
theorem fieldReadyCheck : Obligations.FieldReadyCheck := by
  unfold Obligations.FieldReadyCheck
  exact fun i s => ⟨exec_of_needsField_of_not_valid, fun hi hrun =>
    exec_neverUnready hi (hrun.trans_ne (by decide))⟩

end Sys2Proof.Machine
end

section
/-! PROOFS. The symbols of a legal field as a commutative ring (41_gf_scalar.md R112, R113, R124): the
coefficients of the polynomials that the lists of 42_gf_poly.md stand for. -/

namespace Sys2Proof.Machine

theorem LegalField.isSymbol_one {P N : Nat} (h : LegalField P N) (b : Nat) :
    IsSymbol (builtField P N b) 1 := h.two_le

/-- The laws of R124 make the symbols a ring; every element is its own negative. -/
@[reducible] def LegalField.symbolRing {P N : Nat} (h : LegalField P N) (b : Nat) :
    CommRing {x : Word // IsSymbol (builtField P N b) x} :=
  letI : Add {x : Word // IsSymbol (builtField P N b) x} :=
    ⟨fun x y => ⟨gfAdd x y, h.isSymbol_gfAdd b x.2 y.2⟩⟩
  letI : Mul {x : Word // IsSymbol (builtField P N b) x} :=
    ⟨fun x y => ⟨gfMul (builtField P N b) x y, h.isSymbol_gfMul b x.2 y.2⟩⟩
  letI : Neg {x : Word // IsSymbol (builtField P N b) x} := ⟨id⟩
  letI : Zero {x : Word // IsSymbol (builtField P N b) x} := ⟨⟨0, h.isSymbol_zero b⟩⟩
  letI : One {x : Word // IsSymbol (builtField P N b) x} := ⟨⟨1, h.isSymbol_one b⟩⟩
  CommRing.ofMinimalAxioms
    (fun x y z => Subtype.ext (BitVec.xor_assoc x.1 y.1 z.1))
    (fun _ => Subtype.ext BitVec.zero_xor)
    (fun x => Subtype.ext (gfAdd_self x.1))
    (fun x y z => Subtype.ext (h.gfMul_assoc b x.2 y.2 z.2))
    (fun x y => Subtype.ext (gfMul_comm _ x.1 y.1))
    (fun x => Subtype.ext ((gfMul_comm _ 1 x.1).trans (h.gfMul_one b x.2)))
    (fun x y z => Subtype.ext (h.gfMul_gfAdd b x.2 y.2 z.2))

/-- A map of words to a commutative ring that is faithful on the symbols and their arithmetic. -/
structure IsFieldMap (f : GF) {K : Type} [CommRing K] (φ : Word → K) : Prop where
  map_zero : φ 0 = 0
  map_one : φ 1 = 1
  map_add : ∀ {x y}, IsSymbol f x → IsSymbol f y → φ (gfAdd x y) = φ x + φ y
  map_mul : ∀ {x y}, IsSymbol f x → IsSymbol f y → φ (gfMul f x y) = φ x * φ y
  injOn : Set.InjOn φ {x | IsSymbol f x}

theorem LegalField.exists_isFieldMap {P N : Nat} (h : LegalField P N) (b : Nat) :
    ∃ (K : Type) (_ : CommRing K) (φ : Word → K), IsFieldMap (builtField P N b) φ := by
  classical
  let _ := h.symbolRing b
  refine ⟨_, h.symbolRing b,
    fun x => if hx : IsSymbol (builtField P N b) x then ⟨x, hx⟩ else 0, ?_⟩
  refine ⟨dif_pos (h.isSymbol_zero b), dif_pos (h.isSymbol_one b), fun hx hy => ?_,
    fun hx hy => ?_, fun x hx y hy he => ?_⟩
  · rw [dif_pos hx, dif_pos hy, dif_pos (h.isSymbol_gfAdd b hx hy)]
    rfl
  · rw [dif_pos hx, dif_pos hy, dif_pos (h.isSymbol_gfMul b hx hy)]
    rfl
  · exact congrArg Subtype.val ((dif_pos hx).symm.trans (he.trans (dif_pos hy)))

end Sys2Proof.Machine
end

section
/-! PROOFS. Lists of symbols and their normal form (42_gf_poly.md R130, R131, R135): what is a symbol, a
length or a leading entry of a result. -/

namespace Sys2Proof.Machine

/-! ### The normal form (R131) -/

theorem norm_zero_cons {p : Poly} (hp : p ≠ []) : norm (0 :: p) = norm p := by
  cases p with
  | nil => exact absurd rfl hp
  | cons c p => exact if_pos rfl

theorem norm_cons_of_ne_zero {c : Word} (hc : c ≠ 0) (p : Poly) : norm (c :: p) = c :: p := by
  cases p with
  | nil => rfl
  | cons d p => exact if_neg hc

theorem norm_zeros_append (k : Nat) {p : Poly} (hp : p ≠ []) : norm (zeros k ++ p) = norm p := by
  induction k with
  | zero => rfl
  | succ k ih =>
    exact (norm_zero_cons (List.append_ne_nil_of_right_ne_nil _ hp)).trans ih

/-- `norm` drops zeros from the front, and its result has no leading zero but in `[0]`. -/
theorem eq_zeros_append_norm {p : Poly} (hp : p ≠ []) :
    ∃ k, p = zeros k ++ norm p ∧ norm p ≠ [] ∧ (lead (norm p) = 0 → norm p = [0]) := by
  induction p with
  | nil => exact absurd rfl hp
  | cons c p ih =>
    by_cases hc : c = 0
    · subst hc
      cases p with
      | nil => exact ⟨0, rfl, List.cons_ne_nil 0 [], fun _ => rfl⟩
      | cons d p =>
        obtain ⟨k, hk, hne, hlead⟩ := ih (List.cons_ne_nil d p)
        rw [norm_zero_cons (List.cons_ne_nil d p)]
        exact ⟨k + 1, congrArg (0 :: ·) hk, hne, hlead⟩
    · rw [norm_cons_of_ne_zero hc]
      exact ⟨0, rfl, List.cons_ne_nil c p, fun h => absurd h hc⟩

theorem length_norm_le {p : Poly} (hp : p ≠ []) : (norm p).length ≤ p.length := by
  obtain ⟨k, hk, -⟩ := eq_zeros_append_norm hp
  have := congrArg List.length hk
  rw [List.length_append] at this
  omega

theorem norm_eq_self {p : Poly} (hp : lead p = 0 → p = [0]) : norm p = p := by
  cases p with
  | nil => rfl
  | cons c p =>
    by_cases hc : c = 0
    · rw [hp hc]
      rfl
    · exact norm_cons_of_ne_zero hc p

theorem isPoly_norm {f : GF} {p : Poly} (hp : p ≠ []) (hs : AreSymbols f p) :
    IsPoly f (norm p) := by
  obtain ⟨k, hk, hne, hlead⟩ := eq_zeros_append_norm hp
  refine ⟨hne, fun a ha => hs a ?_, hlead⟩
  rw [hk]
  exact List.mem_append_right _ ha

/-! ### Polynomials as lists -/

@[simp] theorem length_zeros (n : Nat) : (zeros n).length = n := List.length_replicate

/-- A polynomial is zero or begins with a non-zero coefficient. -/
theorem IsPoly.eq_zero_or_cons {f : GF} {p : Poly} (hp : IsPoly f p) :
    p = [0] ∨ ∃ c l, p = c :: l ∧ c ≠ 0 ∧ IsSymbol f c ∧ AreSymbols f l := by
  obtain ⟨hne, hs, hlead⟩ := hp
  cases p with
  | nil => exact absurd rfl hne
  | cons c l =>
    obtain ⟨hc, hl⟩ := List.forall_mem_cons.1 hs
    by_cases h : c = 0
    · exact .inl (hlead h)
    · exact .inr ⟨c, l, rfl, h, hc, hl⟩

theorem IsPoly.isSymbol_lead {f : GF} {p : Poly} (hp : IsPoly f p) : IsSymbol f (lead p) := by
  obtain ⟨hne, hs, -⟩ := hp
  cases p with
  | nil => exact absurd rfl hne
  | cons c l => exact hs c List.mem_cons_self

theorem isZero_cons {c : Word} (hc : c ≠ 0) (p : Poly) : isZero (c :: p) = false :=
  beq_false_of_ne hc

/-! ### Which lists hold symbols only (R111) -/

section
variable {P N : Nat} (b : Nat)

theorem areSymbols_cons {f : GF} {c : Word} {p : Poly} :
    AreSymbols f (c :: p) ↔ IsSymbol f c ∧ AreSymbols f p := List.forall_mem_cons

theorem areSymbols_append {f : GF} {p q : Poly} :
    AreSymbols f (p ++ q) ↔ AreSymbols f p ∧ AreSymbols f q := List.forall_mem_append

theorem LegalField.areSymbols_zeros (h : LegalField P N) (n : Nat) :
    AreSymbols (builtField P N b) (zeros n) := fun _ ha =>
  List.eq_of_mem_replicate ha ▸ h.isSymbol_zero b

theorem LegalField.areSymbols_padTo (h : LegalField P N) (n : Nat) {p : Poly}
    (hp : AreSymbols (builtField P N b) p) : AreSymbols (builtField P N b) (padTo n p) :=
  areSymbols_append.2 ⟨h.areSymbols_zeros b _, hp⟩

theorem LegalField.areSymbols_zipWith (h : LegalField P N) {p q : Poly}
    (hp : AreSymbols (builtField P N b) p) (hq : AreSymbols (builtField P N b) q) :
    AreSymbols (builtField P N b) (List.zipWith gfAdd p q) := by
  induction p generalizing q with
  | nil => exact List.forall_mem_nil _
  | cons c p ih =>
    cases q with
    | nil => exact List.forall_mem_nil _
    | cons d q =>
      obtain ⟨hc, hp⟩ := areSymbols_cons.1 hp
      obtain ⟨hd, hq⟩ := areSymbols_cons.1 hq
      exact areSymbols_cons.2 ⟨h.isSymbol_gfAdd b hc hd, ih hp hq⟩

theorem LegalField.areSymbols_map_gfMul (h : LegalField P N) {c : Word} {p : Poly}
    (hc : IsSymbol (builtField P N b) c) (hp : AreSymbols (builtField P N b) p) :
    AreSymbols (builtField P N b) (p.map (gfMul (builtField P N b) c)) :=
  List.forall_mem_map.2 fun _ ha => h.isSymbol_gfMul b hc (hp _ ha)

theorem LegalField.areSymbols_xorFront (h : LegalField P N) {p q : Poly}
    (hp : AreSymbols (builtField P N b) p) (hq : AreSymbols (builtField P N b) q) :
    AreSymbols (builtField P N b) (xorFront p q) := by
  induction p generalizing q with
  | nil => exact hq
  | cons c p ih =>
    cases q with
    | nil => exact hp
    | cons d q =>
      obtain ⟨hc, hp⟩ := areSymbols_cons.1 hp
      obtain ⟨hd, hq⟩ := areSymbols_cons.1 hq
      exact areSymbols_cons.2 ⟨h.isSymbol_gfAdd b hc hd, ih hp hq⟩

theorem LegalField.areSymbols_convolve (h : LegalField P N) {p q : Poly}
    (hp : AreSymbols (builtField P N b) p) (hq : AreSymbols (builtField P N b) q) :
    AreSymbols (builtField P N b) (convolve (builtField P N b) p q) := by
  induction p with
  | nil => exact hp
  | cons c p ih =>
    obtain ⟨hc, hp⟩ := areSymbols_cons.1 hp
    exact h.areSymbols_xorFront b (h.areSymbols_map_gfMul b hc hq)
      (areSymbols_cons.2 ⟨h.isSymbol_zero b, ih hp⟩)

end

/-! ### Lengths and leading entries (R134, R135) -/

theorem length_padTo {n : Nat} (p : Poly) : (padTo n p).length = max n p.length := by
  rw [padTo, List.length_append, length_zeros]
  omega

theorem length_xorFront (p q : Poly) : (xorFront p q).length = max p.length q.length := by
  induction p generalizing q with
  | nil => exact (Nat.zero_max _).symm
  | cons c p ih =>
    cases q with
    | nil => rfl
    | cons d q => rw [xorFront, List.length_cons, ih, List.length_cons, List.length_cons]; omega

theorem length_convolve (f : GF) {p q : Poly} (hp : p ≠ []) (hq : q ≠ []) :
    (convolve f p q).length = p.length + q.length - 1 := by
  have hlen := List.length_pos_of_ne_nil hq
  induction p with
  | nil => exact absurd rfl hp
  | cons c p ih =>
    rw [convolve, length_xorFront, List.length_map, List.length_cons, List.length_cons]
    cases p with
    | nil =>
      rw [convolve, List.length_nil]
      omega
    | cons d p =>
      rw [ih (List.cons_ne_nil d p), List.length_cons]
      omega

theorem convolve_cons_cons (f : GF) (c d : Word) (p q : Poly) :
    ∃ l, convolve f (c :: p) (d :: q) = gfMul f c d :: l :=
  ⟨_, congrArg (· :: _) BitVec.xor_zero⟩

/-- The product of polynomials with leading coefficients `c` and `d`: degrees add, and `c * d` leads. -/
theorem polyMul_cons_cons (f : GF) {c d : Word} (hc : c ≠ 0) (hd : d ≠ 0) (p q : Poly) :
    ∃ l, polyMul f (c :: p) (d :: q) = gfMul f c d :: l ∧ l.length = p.length + q.length := by
  obtain ⟨l, hl⟩ := convolve_cons_cons f c d p q
  have hlen := length_convolve f (List.cons_ne_nil c p) (List.cons_ne_nil d q)
  rw [hl] at hlen
  simp only [List.length_cons] at hlen
  rw [polyMul, isZero_cons hc, isZero_cons hd, if_neg (by decide), hl]
  exact ⟨l, rfl, by omega⟩

theorem padTo_of_length_le {n : Nat} {p : Poly} (h : n ≤ p.length) : padTo n p = p := by
  rw [padTo, Nat.sub_eq_zero_of_le h]
  rfl

/-- In a sum of equally long polynomials with the same leading coefficient that coefficient cancels. -/
theorem polyAdd_cons_cons (c : Word) {p q : Poly} (hlen : p.length = q.length) :
    polyAdd (c :: p) (c :: q) = [0] ∨ (polyAdd (c :: p) (c :: q)).length ≤ p.length := by
  have hsum : polyAdd (c :: p) (c :: q) = norm (0 :: List.zipWith gfAdd p q) := by
    rw [polyAdd, padTo_of_length_le (by simp [hlen]), padTo_of_length_le (by simp [hlen]),
      List.zipWith_cons_cons, gfAdd_self]
  rw [hsum]
  by_cases hnil : List.zipWith gfAdd p q = []
  · rw [hnil]
    exact .inl rfl
  · rw [norm_zero_cons hnil]
    exact .inr ((length_norm_le hnil).trans (List.length_zipWith.trans_le (Nat.min_le_left ..)))

/-! ### Sums and products are polynomials (R134, R135) -/

section
variable {P N : Nat} (b : Nat)

theorem LegalField.isPoly_polyAdd (h : LegalField P N) {p q : Poly}
    (hp : IsPoly (builtField P N b) p) (hq : IsPoly (builtField P N b) q) :
    IsPoly (builtField P N b) (polyAdd p q) := by
  obtain ⟨hpne, hps, -⟩ := hp
  obtain ⟨-, hqs, -⟩ := hq
  refine isPoly_norm (fun hnil => hpne ?_)
    (h.areSymbols_zipWith b (h.areSymbols_padTo b _ hps) (h.areSymbols_padTo b _ hqs))
  have hlen := congrArg List.length hnil
  rw [List.length_zipWith, length_padTo, length_padTo, List.length_nil] at hlen
  exact List.eq_nil_of_length_eq_zero (by omega)

theorem LegalField.isPoly_zero (h : LegalField P N) : IsPoly (builtField P N b) [0] :=
  ⟨List.cons_ne_nil 0 [], areSymbols_cons.2 ⟨h.isSymbol_zero b, List.forall_mem_nil _⟩,
    fun _ => rfl⟩

theorem isPoly_cons {f : GF} {c : Word} {p : Poly} (hne : c ≠ 0) (hc : IsSymbol f c)
    (hp : AreSymbols f p) : IsPoly f (c :: p) :=
  ⟨List.cons_ne_nil c p, areSymbols_cons.2 ⟨hc, hp⟩, fun h => absurd h hne⟩

theorem LegalField.isPoly_polyMono (h : LegalField P N) (d : Nat) {c : Word}
    (hc : IsSymbol (builtField P N b) c) : IsPoly (builtField P N b) (polyMono d c) := by
  unfold polyMono
  split
  · exact h.isPoly_zero b
  · next hne => exact isPoly_cons hne hc (h.areSymbols_zeros b d)

theorem LegalField.isPoly_polyMul (h : LegalField P N) {p q : Poly}
    (hp : IsPoly (builtField P N b) p) (hq : IsPoly (builtField P N b) q) :
    IsPoly (builtField P N b) (polyMul (builtField P N b) p q) := by
  obtain rfl | ⟨c, p, rfl, hcne, hc, -⟩ := hp.eq_zero_or_cons
  · exact h.isPoly_zero b
  obtain rfl | ⟨d, q, rfl, hdne, hd, -⟩ := hq.eq_zero_or_cons
  · rw [polyMul, if_pos (.inr rfl)]
    exact h.isPoly_zero b
  obtain ⟨l, hl⟩ := convolve_cons_cons (builtField P N b) c d p q
  have hs := h.areSymbols_convolve b hp.2.1 hq.2.1
  rw [polyMul, isZero_cons hcne, isZero_cons hdne, if_neg (by decide), hl]
  rw [hl, areSymbols_cons] at hs
  exact isPoly_cons (fun hzero => (h.gfMul_eq_zero b hc hd hzero).elim hcne hdne) hs.1 hs.2

end

end Sys2Proof.Machine
end

section
/-! PROOFS. Coefficient lists as Mathlib polynomials (42_gf_poly.md R134, R135, R138): `poly_add`,
`poly_mul` and `poly_eval` are sum, product and evaluation over the ring of the symbols. -/

namespace Sys2Proof.Machine

open Polynomial

/-- The polynomial of a list, highest degree first (R130), with its coefficients mapped by `φ`. -/
noncomputable def toPolynomial {K : Type} [CommRing K] (φ : Word → K) : Poly → K[X]
  | [] => 0
  | c :: p => C (φ c) * X ^ p.length + toPolynomial φ p

/-! ### Reading a list as a polynomial (R130 to R132) -/

section
variable {K : Type} [CommRing K] {φ : Word → K} {f : GF}

theorem toPolynomial_append (p q : Poly) :
    toPolynomial φ (p ++ q) = toPolynomial φ p * X ^ q.length + toPolynomial φ q := by
  induction p with
  | nil => simp [toPolynomial]
  | cons c p ih =>
    rw [List.cons_append, toPolynomial, ih, toPolynomial, List.length_append, pow_add]
    ring

theorem IsFieldMap.toPolynomial_zeros (hφ : IsFieldMap f φ) (n : Nat) :
    toPolynomial φ (zeros n) = 0 := by
  induction n with
  | zero => rfl
  | succ n ih =>
    have hcons : zeros (n + 1) = 0 :: zeros n := rfl
    rw [hcons, toPolynomial, ih, hφ.map_zero, C_0, zero_mul, zero_add]

/-- Leading zeros change the list and not the polynomial. -/
theorem IsFieldMap.toPolynomial_zeros_append (hφ : IsFieldMap f φ) (n : Nat) (p : Poly) :
    toPolynomial φ (zeros n ++ p) = toPolynomial φ p := by
  rw [toPolynomial_append, hφ.toPolynomial_zeros, zero_mul, zero_add]

theorem IsFieldMap.toPolynomial_zero_cons (hφ : IsFieldMap f φ) (p : Poly) :
    toPolynomial φ (0 :: p) = toPolynomial φ p := hφ.toPolynomial_zeros_append 1 p

theorem IsFieldMap.toPolynomial_norm (hφ : IsFieldMap f φ) (p : Poly) :
    toPolynomial φ (norm p) = toPolynomial φ p := by
  by_cases hp : p = []
  · rw [hp]
    rfl
  · obtain ⟨k, hk, -⟩ := eq_zeros_append_norm hp
    conv_rhs => rw [hk, hφ.toPolynomial_zeros_append]

theorem coeff_toPolynomial_of_length_le (p : Poly) {k : Nat} (hk : p.length ≤ k) :
    (toPolynomial φ p).coeff k = 0 := by
  induction p with
  | nil => exact coeff_zero k
  | cons c p ih =>
    rw [List.length_cons] at hk
    rw [toPolynomial, coeff_add, coeff_C_mul_X_pow, if_neg (by omega), ih (by omega), add_zero]

/-- Lists of symbols of one length are determined by their polynomials. -/
theorem IsFieldMap.eq_of_toPolynomial_eq (hφ : IsFieldMap f φ) {p q : Poly}
    (hp : AreSymbols f p) (hq : AreSymbols f q) (hlen : p.length = q.length)
    (he : toPolynomial φ p = toPolynomial φ q) : p = q := by
  induction p generalizing q with
  | nil => exact (List.eq_nil_of_length_eq_zero hlen.symm).symm
  | cons c p ih =>
    cases q with
    | nil => cases hlen
    | cons d q =>
      have hlen : p.length = q.length := Nat.succ.inj hlen
      obtain ⟨hc, hp⟩ := areSymbols_cons.1 hp
      obtain ⟨hd, hq⟩ := areSymbols_cons.1 hq
      rw [toPolynomial, toPolynomial, hlen] at he
      have hlead := congrArg (Polynomial.coeff · q.length) he
      simp only [coeff_add, coeff_C_mul_X_pow, if_true, coeff_toPolynomial_of_length_le p hlen.le,
        coeff_toPolynomial_of_length_le q le_rfl, add_zero] at hlead
      rw [hlead] at he
      rw [hφ.injOn hc hd hlead, ih hp hq hlen (add_left_cancel he)]

/-- Lists of symbols with one polynomial have one normal form. -/
theorem LegalField.norm_eq_of_toPolynomial_eq {P N b : Nat} (h : LegalField P N)
    (hφ : IsFieldMap (builtField P N b) φ) {p q : Poly} (hpne : p ≠ []) (hqne : q ≠ [])
    (hp : AreSymbols (builtField P N b) p) (hq : AreSymbols (builtField P N b) q)
    (he : toPolynomial φ p = toPolynomial φ q) : norm p = norm q := by
  have hpad : padTo q.length p = padTo p.length q := by
    refine hφ.eq_of_toPolynomial_eq (h.areSymbols_padTo b _ hp) (h.areSymbols_padTo b _ hq) ?_ ?_
    · rw [length_padTo, length_padTo, max_comm]
    · rw [padTo, padTo, hφ.toPolynomial_zeros_append, hφ.toPolynomial_zeros_append, he]
  rw [← norm_zeros_append _ hpne, ← norm_zeros_append _ hqne]
  exact congrArg norm hpad

end

/-! ### Sum, product, value (R134, R135, R138) -/

section
variable {P N b : Nat} {K : Type} [CommRing K] {φ : Word → K}

/-- Addition is XOR, so every polynomial is its own negative. -/
theorem LegalField.add_self (h : LegalField P N) (hφ : IsFieldMap (builtField P N b) φ) (p : K[X]) :
    p + p = 0 := by
  have htwo : (1 : K) + 1 = 0 := by
    rw [← hφ.map_one, ← hφ.map_add (h.isSymbol_one b) (h.isSymbol_one b), gfAdd_self, hφ.map_zero]
  calc p + p = C (1 + 1) * p := by rw [C_add, C_1]; ring
    _ = 0 := by rw [htwo, C_0, zero_mul]

theorem IsFieldMap.toPolynomial_zipWith_gfAdd {f : GF} (hφ : IsFieldMap f φ) {p q : Poly}
    (hp : AreSymbols f p) (hq : AreSymbols f q) (hlen : p.length = q.length) :
    toPolynomial φ (List.zipWith gfAdd p q) = toPolynomial φ p + toPolynomial φ q := by
  induction p generalizing q with
  | nil => rw [List.eq_nil_of_length_eq_zero hlen.symm]; exact (add_zero 0).symm
  | cons c p ih =>
    cases q with
    | nil => cases hlen
    | cons d q =>
      have hlen : p.length = q.length := Nat.succ.inj hlen
      obtain ⟨hc, hp⟩ := areSymbols_cons.1 hp
      obtain ⟨hd, hq⟩ := areSymbols_cons.1 hq
      rw [List.zipWith_cons_cons, toPolynomial, toPolynomial, toPolynomial, ih hp hq hlen,
        hφ.map_add hc hd, C_add, List.length_zipWith, hlen, Nat.min_self]
      ring

theorem LegalField.toPolynomial_polyAdd (h : LegalField P N) (hφ : IsFieldMap (builtField P N b) φ)
    {p q : Poly} (hp : AreSymbols (builtField P N b) p) (hq : AreSymbols (builtField P N b) q) :
    toPolynomial φ (polyAdd p q) = toPolynomial φ p + toPolynomial φ q := by
  rw [polyAdd, hφ.toPolynomial_norm, hφ.toPolynomial_zipWith_gfAdd (h.areSymbols_padTo b _ hp)
    (h.areSymbols_padTo b _ hq) (by rw [length_padTo, length_padTo, max_comm]), padTo, padTo,
    hφ.toPolynomial_zeros_append, hφ.toPolynomial_zeros_append]

theorem IsFieldMap.toPolynomial_map_gfMul {f : GF} (hφ : IsFieldMap f φ) {c : Word} {p : Poly}
    (hc : IsSymbol f c) (hp : AreSymbols f p) :
    toPolynomial φ (p.map (gfMul f c)) = C (φ c) * toPolynomial φ p := by
  induction p with
  | nil => exact (mul_zero _).symm
  | cons d p ih =>
    obtain ⟨hd, hp⟩ := areSymbols_cons.1 hp
    rw [List.map_cons, toPolynomial, toPolynomial, ih hp, hφ.map_mul hc hd, C_mul, List.length_map]
    ring

/-- `xorFront` aligns at the front: the shorter list counts as extended by zeros at the end. -/
theorem IsFieldMap.toPolynomial_xorFront {f : GF} (hφ : IsFieldMap f φ) {p q : Poly}
    (hp : AreSymbols f p) (hq : AreSymbols f q) :
    toPolynomial φ (xorFront p q) =
      toPolynomial φ p * X ^ (q.length - p.length) +
        toPolynomial φ q * X ^ (p.length - q.length) := by
  induction p generalizing q with
  | nil => simp [xorFront, toPolynomial]
  | cons c p ih =>
    cases q with
    | nil => simp [xorFront, toPolynomial]
    | cons d q =>
      obtain ⟨hc, hp⟩ := areSymbols_cons.1 hp
      obtain ⟨hd, hq⟩ := areSymbols_cons.1 hq
      have hlen : max p.length q.length = p.length + (q.length - p.length) := by omega
      have hexp : (X : K[X]) ^ p.length * X ^ (q.length - p.length) =
          X ^ q.length * X ^ (p.length - q.length) := by
        rw [← pow_add, ← pow_add]
        congr 1
        omega
      rw [xorFront, toPolynomial, toPolynomial, toPolynomial, ih hp hq, hφ.map_add hc hd, C_add,
        length_xorFront, List.length_cons, List.length_cons, Nat.add_sub_add_right,
        Nat.add_sub_add_right, hlen, pow_add]
      linear_combination C (φ d) * hexp

theorem LegalField.toPolynomial_convolve (h : LegalField P N) (hφ : IsFieldMap (builtField P N b) φ)
    {p q : Poly} (hp : AreSymbols (builtField P N b) p) (hq : AreSymbols (builtField P N b) q)
    (hne : q ≠ []) :
    toPolynomial φ (convolve (builtField P N b) p q) = toPolynomial φ p * toPolynomial φ q := by
  induction p with
  | nil => exact (zero_mul _).symm
  | cons c p ih =>
    obtain ⟨hc, hp⟩ := areSymbols_cons.1 hp
    have hrest := areSymbols_cons.2 ⟨h.isSymbol_zero b, h.areSymbols_convolve b hp hq⟩
    have hlen := List.length_pos_of_ne_nil hne
    rw [convolve, hφ.toPolynomial_xorFront (h.areSymbols_map_gfMul b hc hq) hrest,
      hφ.toPolynomial_map_gfMul hc hq, hφ.toPolynomial_zero_cons, ih hp, List.length_map,
      List.length_cons, toPolynomial]
    by_cases hnil : p = []
    · subst hnil
      rw [convolve, List.length_nil, Nat.sub_eq_zero_of_le (by omega), toPolynomial]
      ring
    · rw [length_convolve _ hnil hne, Nat.sub_eq_zero_of_le (n := q.length) (by omega),
        show p.length + q.length - 1 + 1 - q.length = p.length by omega]
      ring

theorem LegalField.toPolynomial_polyMul (h : LegalField P N) (hφ : IsFieldMap (builtField P N b) φ)
    {p q : Poly} (hp : IsPoly (builtField P N b) p) (hq : IsPoly (builtField P N b) q) :
    toPolynomial φ (polyMul (builtField P N b) p q) = toPolynomial φ p * toPolynomial φ q := by
  have hzero : toPolynomial φ [0] = 0 := hφ.toPolynomial_zeros 1
  obtain rfl | ⟨c, p, rfl, hcne, -, -⟩ := hp.eq_zero_or_cons
  · rw [polyMul, if_pos (.inl rfl), hzero, zero_mul]
  obtain rfl | ⟨d, q, rfl, hdne, -, -⟩ := hq.eq_zero_or_cons
  · rw [polyMul, if_pos (.inr rfl), hzero, mul_zero]
  rw [polyMul, isZero_cons hcne, isZero_cons hdne, if_neg (by decide),
    h.toPolynomial_convolve hφ hp.2.1 hq.2.1 (List.cons_ne_nil d q)]

theorem IsFieldMap.toPolynomial_polyMono {f : GF} (hφ : IsFieldMap f φ) (d : Nat) (c : Word) :
    toPolynomial φ (polyMono d c) = C (φ c) * X ^ d := by
  unfold polyMono
  split
  · next hc => rw [hc, hφ.map_zero, C_0, zero_mul]; exact hφ.toPolynomial_zeros 1
  · rw [toPolynomial, hφ.toPolynomial_zeros, length_zeros, add_zero]

/-- Horner's rule from an intermediate result `r` on, which itself is a symbol at every pass. -/
theorem LegalField.foldl_horner (h : LegalField P N) (hφ : IsFieldMap (builtField P N b) φ)
    {p : Poly} {a r : Word} (ha : IsSymbol (builtField P N b) a)
    (hr : IsSymbol (builtField P N b) r) (hp : AreSymbols (builtField P N b) p) :
    IsSymbol (builtField P N b) (p.foldl (fun r c => gfAdd (gfMul (builtField P N b) r a) c) r) ∧
      φ (p.foldl (fun r c => gfAdd (gfMul (builtField P N b) r a) c) r) =
        φ r * φ a ^ p.length + (toPolynomial φ p).eval (φ a) := by
  induction p generalizing r with
  | nil => exact ⟨hr, by simp [toPolynomial]⟩
  | cons c p ih =>
    obtain ⟨hc, hp⟩ := areSymbols_cons.1 hp
    have hmul := h.isSymbol_gfMul b hr ha
    obtain ⟨hs, he⟩ := ih (h.isSymbol_gfAdd b hmul hc) hp
    refine ⟨hs, he.trans ?_⟩
    rw [hφ.map_add hmul hc, hφ.map_mul hr ha, toPolynomial, eval_add, eval_mul, eval_C, eval_pow,
      eval_X, List.length_cons]
    ring

theorem LegalField.isSymbol_polyEval (h : LegalField P N) {p : Poly} {a : Word}
    (ha : IsSymbol (builtField P N b) a) (hp : AreSymbols (builtField P N b) p) :
    IsSymbol (builtField P N b) (polyEval (builtField P N b) p a) := by
  obtain ⟨_, _, _, hφ⟩ := h.exists_isFieldMap b
  exact (h.foldl_horner hφ ha (h.isSymbol_zero b) hp).1

theorem LegalField.map_polyEval (h : LegalField P N) (hφ : IsFieldMap (builtField P N b) φ)
    {p : Poly} {a : Word} (ha : IsSymbol (builtField P N b) a)
    (hp : AreSymbols (builtField P N b) p) :
    φ (polyEval (builtField P N b) p a) = (toPolynomial φ p).eval (φ a) := by
  rw [polyEval, (h.foldl_horner hφ ha (h.isSymbol_zero b) hp).2, hφ.map_zero, zero_mul, zero_add]

end

end Sys2Proof.Machine
end

section
/-! PROOFS. Long division (42_gf_poly.md R137): every pass keeps `quotient * divisor + remainder` and
shortens the remainder, so the passes the model allows suffice. -/

namespace Sys2Proof.Machine

/-- The division of `a` by `d` has come to quotient `q` and remainder `r`. -/
structure IsDivision {K : Type} [CommRing K] (f : GF) (φ : Word → K) (a d q r : Poly) : Prop where
  quotient : IsPoly f q
  remainder : IsPoly f r
  identity : toPolynomial φ q * toPolynomial φ d + toPolynomial φ r = toPolynomial φ a

/-- The term of the quotient a pass of R137 adds. -/
def divTerm (f : GF) (d r : Poly) : Poly :=
  polyMono (deg r - deg d) (gfMul f (lead r) (gfInv f (lead d)))

theorem divLoop_succ (f : GF) (d : Poly) (fuel : Nat) (q r : Poly) :
    divLoop f d (gfInv f (lead d)) (fuel + 1) q r =
      if deg d ≤ deg r ∧ isZero r = false then
        divLoop f d (gfInv f (lead d)) fuel (polyAdd q (divTerm f d r))
          (polyAdd r (polyMul f d (divTerm f d r)))
      else (q, r) := rfl

section
variable {P N b : Nat} {K : Type} [CommRing K] {φ : Word → K}

theorem LegalField.isPoly_divTerm (h : LegalField P N) {d r : Poly}
    (hd : IsPoly (builtField P N b) d) (hr : IsPoly (builtField P N b) r) :
    IsPoly (builtField P N b) (divTerm (builtField P N b) d r) := by
  have hinv := h.isSymbol_gfInv b hd.isSymbol_lead
  exact h.isPoly_polyMono b _ (h.isSymbol_gfMul b hr.isSymbol_lead hinv)

theorem LegalField.gfMul_gfMul_gfInv (h : LegalField P N) {x y : Word}
    (hx : IsSymbol (builtField P N b) x) (hy : IsSymbol (builtField P N b) y) (hne : x ≠ 0) :
    gfMul (builtField P N b) x (gfMul (builtField P N b) y (gfInv (builtField P N b) x)) = y := by
  rw [gfMul_comm _ y, ← h.gfMul_assoc b hx (h.isSymbol_gfInv b hx) hy, h.gfMul_gfInv b hx hne,
    gfMul_comm, h.gfMul_one b hy]

/-- The term is chosen so that its product with the divisor cancels the leading coefficient. -/
theorem LegalField.divPass_shorter (h : LegalField P N) {d r : Poly}
    (hd : IsPoly (builtField P N b) d) (hr : IsPoly (builtField P N b) r)
    (hdne : isZero d = false) (hrne : isZero r = false) (hdeg : deg d ≤ deg r) {r' : Poly}
    (hr' : r' = polyAdd r (polyMul (builtField P N b) d (divTerm (builtField P N b) d r))) :
    r' = [0] ∨ r'.length < r.length := by
  obtain rfl | ⟨x, d, rfl, hxne, hx, -⟩ := hd.eq_zero_or_cons
  · cases hdne
  obtain rfl | ⟨y, r, rfl, hyne, hy, -⟩ := hr.eq_zero_or_cons
  · cases hrne
  have hcancel := h.gfMul_gfMul_gfInv hx hy hxne
  have hterm : gfMul (builtField P N b) y (gfInv (builtField P N b) x) ≠ 0 := fun hzero => by
    rw [hzero, gfMul_zero_right] at hcancel
    exact hyne hcancel.symm
  have hdeg : d.length ≤ r.length := hdeg
  have hmono : divTerm (builtField P N b) (x :: d) (y :: r) =
      gfMul (builtField P N b) y (gfInv (builtField P N b) x) :: zeros (r.length - d.length) :=
    if_neg hterm
  obtain ⟨l, hl, hlen⟩ :=
    polyMul_cons_cons (builtField P N b) hxne hterm d (zeros (r.length - d.length))
  rw [hmono, hl, hcancel] at hr'
  rw [length_zeros] at hlen
  obtain hzero | hle := polyAdd_cons_cons y (p := r) (q := l) (by omega)
  · exact .inl (hr'.trans hzero)
  · exact .inr (hr' ▸ Nat.lt_succ_of_le hle)

/-- A pass moves a multiple of the divisor from the remainder to the quotient. -/
theorem LegalField.isDivision_pass (h : LegalField P N) (hφ : IsFieldMap (builtField P N b) φ)
    {a d q r : Poly} (hd : IsPoly (builtField P N b) d)
    (hdiv : IsDivision (builtField P N b) φ a d q r) :
    IsDivision (builtField P N b) φ a d (polyAdd q (divTerm (builtField P N b) d r))
      (polyAdd r (polyMul (builtField P N b) d (divTerm (builtField P N b) d r))) := by
  obtain ⟨hq, hr, hid⟩ := hdiv
  have hm := h.isPoly_divTerm hd hr
  have hdm := h.isPoly_polyMul b hd hm
  refine ⟨h.isPoly_polyAdd b hq hm, h.isPoly_polyAdd b hr hdm, ?_⟩
  rw [h.toPolynomial_polyAdd hφ hq.2.1 hm.2.1, h.toPolynomial_polyAdd hφ hr.2.1 hdm.2.1,
    h.toPolynomial_polyMul hφ hd hm, ← hid]
  linear_combination h.add_self hφ
    (toPolynomial φ d * toPolynomial φ (divTerm (builtField P N b) d r))

/-- The remainder gets shorter at every pass, so a fuel of its length is never used up. -/
theorem LegalField.isDivision_divLoop (h : LegalField P N) (hφ : IsFieldMap (builtField P N b) φ)
    {a d q r : Poly} {fuel : Nat} (hd : IsPoly (builtField P N b) d) (hdne : isZero d = false)
    (hdiv : IsDivision (builtField P N b) φ a d q r) (hfuel : r = [0] ∨ r.length ≤ fuel) :
    ∃ q' r', divLoop (builtField P N b) d (gfInv (builtField P N b) (lead d)) fuel q r = (q', r') ∧
      IsDivision (builtField P N b) φ a d q' r' ∧ (r' = [0] ∨ r'.length < d.length) := by
  induction fuel generalizing q r with
  | zero =>
    refine ⟨q, r, rfl, hdiv, .inl (hfuel.resolve_right fun hle => ?_)⟩
    exact hdiv.remainder.1 (List.eq_nil_of_length_eq_zero (Nat.le_zero.1 hle))
  | succ fuel ih =>
    rw [divLoop_succ]
    split
    · next hgo =>
      obtain ⟨hdeg, hrne⟩ := hgo
      have hshort := h.divPass_shorter hd hdiv.remainder hdne hrne hdeg rfl
      have hle : r.length ≤ fuel + 1 := hfuel.resolve_left fun hzero => by
        rw [hzero] at hrne
        cases hrne
      exact ih (h.isDivision_pass hφ hd hdiv) (hshort.imp_right (by omega))
    · next hstop =>
      refine ⟨q, r, rfl, hdiv, ?_⟩
      obtain hzero | ⟨y, l, rfl, hyne, -⟩ := hdiv.remainder.eq_zero_or_cons
      · exact .inl hzero
      · have hdeg : deg (y :: l) < deg d :=
          Nat.lt_of_not_le fun hle => hstop ⟨hle, isZero_cons hyne l⟩
        unfold deg at hdeg
        exact .inr (by omega)

theorem LegalField.exists_polyDivmod (h : LegalField P N) (hφ : IsFieldMap (builtField P N b) φ)
    {a d : Poly} (ha : IsPoly (builtField P N b) a) (hd : IsPoly (builtField P N b) d)
    (hdne : isZero d = false) :
    ∃ q r, polyDivmod (builtField P N b) a d = .ok (q, r) ∧
      IsDivision (builtField P N b) φ a d q r ∧ (r = [0] ∨ r.length < d.length) := by
  have hstart : IsDivision (builtField P N b) φ a d [0] a :=
    ⟨h.isPoly_zero b, ha, by
      rw [show toPolynomial φ [0] = 0 from hφ.toPolynomial_zeros 1, zero_mul, zero_add]⟩
  obtain ⟨q, r, hloop, hdiv, hshort⟩ := h.isDivision_divLoop hφ hd hdne hstart (.inr le_rfl)
  refine ⟨q, r, ?_, hdiv, hshort⟩
  rw [polyDivmod, hdne, if_neg Bool.false_ne_true, hloop]

end
end Sys2Proof.Machine
end

section
/-! PROOFS. The generator polynomials and their cache (43_rs_encoder.md R170, R171). -/

namespace Sys2Proof.Machine

/-! ### The generator polynomial (R170) -/

section
variable {P N : Nat} (b : Nat)

theorem LegalField.isPoly_genFactor (h : LegalField P N) (k : Nat) :
    IsPoly (builtField P N b) (genFactor (builtField P N b) k) :=
  isPoly_cons (by decide) (h.isSymbol_one b)
    (areSymbols_cons.2 ⟨h.isSymbol_alphaPow b _, List.forall_mem_nil _⟩)

/-- The generator polynomial is monic of degree `d`. -/
theorem LegalField.rsGenerator_eq_cons (h : LegalField P N) (d : Nat) :
    IsPoly (builtField P N b) (rsGenerator (builtField P N b) d) ∧
      ∃ l, rsGenerator (builtField P N b) d = 1 :: l ∧ l.length = d := by
  induction d with
  | zero => exact ⟨isPoly_cons (by decide) (h.isSymbol_one b) (List.forall_mem_nil _), [], rfl, rfl⟩
  | succ d ih =>
    obtain ⟨hpoly, l, hl, hlen⟩ := ih
    refine ⟨h.isPoly_polyMul b hpoly (h.isPoly_genFactor b (d + 1)), ?_⟩
    obtain ⟨m, hm, hmlen⟩ := polyMul_cons_cons (builtField P N b) (c := 1) (d := 1) (by decide)
      (by decide) l [alphaPow (builtField P N b) (d + b)]
    rw [h.gfMul_one b (h.isSymbol_one b), ← hl] at hm
    exact ⟨m, hm, by rw [hmlen, hlen, List.length_singleton]⟩

theorem LegalField.isPoly_rsGenerator (h : LegalField P N) (d : Nat) :
    IsPoly (builtField P N b) (rsGenerator (builtField P N b) d) := (h.rsGenerator_eq_cons b d).1

theorem LegalField.length_rsGenerator (h : LegalField P N) (d : Nat) :
    (rsGenerator (builtField P N b) d).length = d + 1 := by
  obtain ⟨-, l, hl, hlen⟩ := h.rsGenerator_eq_cons b d
  rw [hl, List.length_cons, hlen]

theorem LegalField.isZero_rsGenerator (h : LegalField P N) (d : Nat) :
    isZero (rsGenerator (builtField P N b) d) = false := by
  obtain ⟨-, l, hl, -⟩ := h.rsGenerator_eq_cons b d
  rw [hl]
  rfl

/-- In a field where addition is XOR, `α^k` is the root of `x - α^k`. -/
theorem LegalField.polyEval_genFactor (h : LegalField P N) (k : Nat) :
    polyEval (builtField P N b) (genFactor (builtField P N b) (k + 1))
      (alphaPow (builtField P N b) (k + b)) = 0 := by
  change gfAdd (gfMul _ (gfAdd (gfMul _ 0 _) 1) (alphaPow (builtField P N b) (k + b)))
    (alphaPow (builtField P N b) (k + b)) = 0
  rw [gfMul_zero_left, show gfAdd 0 1 = 1 from rfl, gfMul_comm,
    h.gfMul_one b (h.isSymbol_alphaPow b _), gfAdd_self]

/-- The powers `α^base .. α^(base+d-1)` are roots: each is the root of one factor. -/
theorem LegalField.eval_rsGenerator (h : LegalField P N) {K : Type} [CommRing K]
    {φ : Word → K} (hφ : IsFieldMap (builtField P N b) φ) {d i : Nat} (hi : i < d) :
    (toPolynomial φ (rsGenerator (builtField P N b) d)).eval
      (φ (alphaPow (builtField P N b) (i + b))) = 0 := by
  induction d with
  | zero => cases hi
  | succ d ih =>
    rw [rsGenerator, h.toPolynomial_polyMul hφ (h.isPoly_rsGenerator b d) (h.isPoly_genFactor b _),
      Polynomial.eval_mul]
    obtain hlt | rfl := Nat.lt_succ_iff_lt_or_eq.1 hi
    · rw [ih hlt, zero_mul]
    · rw [← h.map_polyEval hφ (h.isSymbol_alphaPow b _) (h.isPoly_genFactor b _).2.1,
        h.polyEval_genFactor, hφ.map_zero, mul_zero]

end

/-! ### The cache (R171) -/

theorem getElem?_genExtend {f : GF} {count j : Nat} (hj : j < count) (k : Nat) :
    (genExtend f count (k + 1) (rsGenerator f k))[j]? = some (rsGenerator f (k + 1 + j)) := by
  induction count generalizing j k with
  | zero => cases hj
  | succ count ih =>
    cases j with
    | zero => rfl
    | succ j =>
      exact (ih (Nat.lt_of_succ_lt_succ hj) (k + 1)).trans
        (congrArg (fun d => some (rsGenerator f d)) (by omega))

/-- `gen_fetch` answers the generator polynomial, whatever the cache held. -/
theorem State.CacheBuilt.genFetch_eq {s : State} (h : s.CacheBuilt) (valid : s.gfValid = true)
    (d : Nat) : s.genFetch d = rsGenerator s.gf d := by
  obtain ⟨hlen, -, hentries⟩ := h
  unfold State.genFetch State.warmCache
  split
  · next hlt =>
    rw [State.cached, hentries valid _ le_rfl, List.getD_eq_getElem?_getD,
      List.getElem?_append_right (by omega), hlen, getElem?_genExtend (by omega), Option.getD_some]
    congr 1
    omega
  · next hge => exact hentries valid d (by omega)

end Sys2Proof.Machine
end

section
/-! PROOFS. What `RSENC` leaves in DMEM is a code word (43_rs_encoder.md R172, R175, R176). -/

namespace Sys2Proof.Machine

/-! ### The code word (R172, R176) -/

section
variable {P N b : Nat}

/-- The check symbols are the remainder of `data * x^ec`, and adding a remainder to its dividend leaves
a multiple of the divisor. -/
theorem LegalField.exists_rsEncode (h : LegalField P N) {data : Poly} {ec : Nat} (hne : data ≠ [])
    (hdata : AreSymbols (builtField P N b) data) (hec : ec ≠ 0) :
    ∃ check, rsEncode (builtField P N b) (rsGenerator (builtField P N b) ec) data ec = .ok check ∧
      check.length = ec ∧ AreSymbols (builtField P N b) check ∧
      ∃ q, IsPoly (builtField P N b) q ∧
        norm (data ++ check) = polyMul (builtField P N b) q (rsGenerator (builtField P N b) ec) := by
  obtain ⟨K, _, φ, hφ⟩ := h.exists_isFieldMap b
  have hgen := h.isPoly_rsGenerator b ec
  have hmono := h.isPoly_polyMono b ec (h.isSymbol_one b)
  have hnorm := isPoly_norm hne hdata
  obtain ⟨q, rem, hdivmod, ⟨hq, hrem, hid⟩, hshort⟩ :=
    h.exists_polyDivmod hφ (h.isPoly_polyMul b hnorm hmono) hgen (h.isZero_rsGenerator b ec)
  have hlen : rem.length ≤ ec := by
    obtain rfl | hlt := hshort
    · exact Nat.one_le_iff_ne_zero.2 hec
    · rw [h.length_rsGenerator] at hlt
      omega
  have hchecklen : (zeros (ec - rem.length) ++ rem).length = ec := by
    rw [List.length_append, length_zeros]
    omega
  have hcheck := areSymbols_append.2 ⟨h.areSymbols_zeros b (ec - rem.length), hrem.2.1⟩
  refine ⟨zeros (ec - rem.length) ++ rem, ?_, hchecklen, hcheck, q, hq, ?_⟩
  · rw [rsEncode, hdivmod]
    rfl
  have hproduct := h.isPoly_polyMul b hq hgen
  rw [← norm_eq_self hproduct.2.2]
  refine h.norm_eq_of_toPolynomial_eq hφ (List.append_ne_nil_of_left_ne_nil hne _) hproduct.1
    (areSymbols_append.2 ⟨hdata, hcheck⟩) hproduct.2.1 ?_
  rw [h.toPolynomial_polyMul hφ hnorm hmono, hφ.toPolynomial_norm, hφ.toPolynomial_polyMono,
    hφ.map_one, Polynomial.C_1, one_mul] at hid
  rw [toPolynomial_append, hchecklen, hφ.toPolynomial_zeros_append, ← hid,
    h.toPolynomial_polyMul hφ hq hgen, add_assoc, h.add_self hφ, add_zero]

/-- A multiple of the generator polynomial has the generator's roots. -/
theorem LegalField.syndromeAt_eq_zero (h : LegalField P N) {q : Poly} {block : List Word}
    {ec i : Nat} (hq : IsPoly (builtField P N b) q)
    (hblock : norm block = polyMul (builtField P N b) q (rsGenerator (builtField P N b) ec))
    (hi : i < ec) : syndromeAt (builtField P N b) block i = 0 := by
  obtain ⟨K, _, φ, hφ⟩ := h.exists_isFieldMap b
  have hgen := h.isPoly_rsGenerator b ec
  have hproduct := (h.isPoly_polyMul b hq hgen).2.1
  have hroot := h.isSymbol_alphaPow b (i + b)
  rw [syndromeAt, hblock]
  refine hφ.injOn (h.isSymbol_polyEval hroot hproduct) (h.isSymbol_zero b) ?_
  calc φ (polyEval (builtField P N b) _ (alphaPow (builtField P N b) (i + b)))
      = (toPolynomial φ q * toPolynomial φ (rsGenerator (builtField P N b) ec)).eval
          (φ (alphaPow (builtField P N b) (i + b))) := by
        rw [h.map_polyEval hφ hroot hproduct, h.toPolynomial_polyMul hφ hq hgen]
    _ = φ 0 := by rw [Polynomial.eval_mul, h.eval_rsGenerator b hφ hi, mul_zero, hφ.map_zero]

end

/-! ### Runs of DMEM (R42) -/

theorem readRun_add (s : State) (a m n : Nat) :
    s.readRun a (m + n) = s.readRun a m ++ s.readRun (a + m) n := by
  simp only [State.readRun, List.range_add, List.map_append, List.map_map, Function.comp_def,
    Nat.add_assoc]

theorem readRun_writeRun_same (s : State) (a : Nat) (l : List Word) :
    (s.writeRun a l).readRun a l.length = l := by
  refine List.ext_getElem (readRun_length _ _ _) fun k _ hk => ?_
  simp only [State.readRun, List.getElem_map, List.getElem_range]
  exact State.readDmem_writeRun_inside l s a k hk

theorem readRun_writeRun_below (s : State) {a n a' : Nat} (h : a + n ≤ a') (l : List Word) :
    (s.writeRun a' l).readRun a n = s.readRun a n := by
  refine List.map_congr_left fun i hi => ?_
  have hi := List.mem_range.1 hi
  exact State.readDmem_writeRun_outside l s a' (a + i) fun k _ => by omega

/-! ### `RSENC` and `RSDEC` (R175, R192) -/

/-- The end of an `RSENC` that writes `check`: its checks have passed and its trap has not arisen. -/
theorem exec_rsenc_completed {s t : State} {a b c : XReg} (hexec : exec (.rsenc a b c) s = .next t)
    (hrun : t.runState = .run) :
    s.gfValid = true ∧ (s.readX b).toNat ≠ 0 ∧ (s.readX c).toNat ≠ 0 ∧
      (s.readX a).toNat + ((s.readX b).toNat + (s.readX c).toNat) ≤ 4096 ∧
      AreSymbols s.gf (s.readRun (s.readX a).toNat (s.readX b).toNat) ∧
      ∃ check, rsEncode s.gf (s.genFetch (s.readX c).toNat)
          (s.readRun (s.readX a).toNat (s.readX b).toNat) (s.readX c).toNat = .ok check ∧
        t = ((s.warmCache (s.readX c).toNat).writeRun ((s.readX a).toNat + (s.readX b).toNat)
          check).advance := by
  obtain heffect | ⟨e, rfl⟩ := exec_effect _ _ _ hexec
  · cases heffect with
    | encode a b c check h valid n1 ec1 fits symbols k =>
      cases h
      exact ⟨valid, n1, ec1, fits, symbols, check, k, rfl⟩
    | nothing h | halt h | transfer _ _ h | scalar _ _ h | vector _ _ h | vectors _ _ _ _ h
    | store _ _ _ h | storeRun _ _ h | fieldCsr _ _ _ h | buildField h | warm _ h
    | generator _ _ h | corrected _ _ _ _ h | partlyCorrected _ _ _ _ _ h => cases h
  · cases hrun

theorem writeRun_warmCache_gf (s : State) (d a : Nat) (l : List Word) :
    ((s.warmCache d).writeRun a l).gf = s.gf := by
  rw [sameButDmem_writeRun l, warmCache_eq]
  rfl

theorem writeRun_warmCache_gfValid (s : State) (d a : Nat) (l : List Word) :
    ((s.warmCache d).writeRun a l).gfValid = s.gfValid := by
  rw [sameButDmem_writeRun l, warmCache_eq]

theorem readRun_warmCache (s : State) (d a n : Nat) :
    (s.warmCache d).readRun a n = s.readRun a n := by
  rw [warmCache_eq]
  rfl

@[simp] theorem State.advance_readRun (s : State) (a n : Nat) :
    s.advance.readRun a n = s.readRun a n := rfl

/-- The block is the data, unchanged, and the check symbols after it. -/
theorem readRun_writeRun_warmCache (s : State) (d a n : Nat) (check : List Word) :
    ((s.warmCache d).writeRun (a + n) check).readRun a (n + check.length) =
      s.readRun a n ++ check := by
  rw [readRun_add, readRun_writeRun_below _ le_rfl, readRun_writeRun_same, readRun_warmCache]

/-- The fast path of R192: zero syndromes, no corrections, count 0. -/
theorem exec_rsdec_of_syndromes_zero {s : State} {a b c : XReg} (d : XReg)
    (hblock : requireBlock s (s.readX a).toNat (s.readX b).toNat (s.readX c).toNat = .ok ())
    (hsyn : ∀ i, i < (s.readX c).toNat →
      syndromeAt s.gf (s.readRun (s.readX a).toNat (s.readX b).toNat) i = 0) :
    exec (.rsdec d a b c) s = .next { s with x := s.x.set d.val 0, pc := s.pc + 1 } := by
  have hall : (rsSyndromes s.gf (s.readRun (s.readX a).toNat (s.readX b).toNat)
      (s.readX c).toNat).all (· == 0) = true := by
    rw [List.all_eq_true]
    intro w hw
    obtain ⟨i, hi, rfl⟩ := List.mem_map.1 hw
    exact beq_iff_eq.2 (hsyn i (List.mem_range.1 hi))
  have hplan :
      rsdecPlan s (s.readX a).toNat (s.readX b).toNat (s.readX c).toNat = .ok ([], []) := by
    rw [rsdecPlan, hblock, ok_bind]
    exact if_pos hall
  rw [exec, execRsdec, hplan]
  rfl

/-- After a completed `RSENC` the field is the same, the block consists of symbols, and as a polynomial it
is a multiple of the generator. -/
theorem rsenc_leaves_codeword {s t : State} {a b c : XReg} {a0 n ec : Nat} (hfield : s.FieldBuilt)
    (hcache : s.CacheBuilt) (ha : a0 = (s.readX a).toNat) (hb : n = (s.readX b).toNat)
    (hc : ec = (s.readX c).toNat) (hexec : exec (.rsenc a b c) s = .next t)
    (hrun : t.runState = .run) :
    s.gfValid = true ∧ n ≠ 0 ∧ ec ≠ 0 ∧ a0 + (n + ec) ≤ 4096 ∧ t.gfValid = true ∧ t.gf = s.gf ∧
      AreSymbols s.gf (t.readRun a0 (n + ec)) ∧
      ∃ q, IsPoly s.gf q ∧ norm (t.readRun a0 (n + ec)) = polyMul s.gf q (rsGenerator s.gf ec) := by
  subst ha hb hc
  obtain ⟨valid, hn, hec, hfits, hdata, check, hcheck, rfl⟩ := exec_rsenc_completed hexec hrun
  obtain ⟨hlegal, hgf⟩ := hfield valid
  refine ⟨valid, hn, hec, hfits, (writeRun_warmCache_gfValid ..).trans valid,
    writeRun_warmCache_gf .., ?_⟩
  have hne : s.readRun (s.readX a).toNat (s.readX b).toNat ≠ [] :=
    List.ne_nil_of_length_pos (by rw [readRun_length]; exact Nat.pos_of_ne_zero hn)
  rw [hcache.genFetch_eq valid, hgf] at hcheck
  rw [hgf] at hdata ⊢
  obtain ⟨check', hcheck', hlen, hsymbols, hmultiple⟩ := hlegal.exists_rsEncode hne hdata hec
  obtain rfl := Except.ok.inj (hcheck'.symm.trans hcheck)
  rw [State.advance_readRun, ← hlen, readRun_writeRun_warmCache, hlen]
  exact ⟨areSymbols_append.2 ⟨hdata, hsymbols⟩, hmultiple⟩

/-! ### The statement -/

/-- Settles O39: the words after the data are the remainder of the shifted data by the generator, so the
block is a multiple of the generator and vanishes at its roots, which is all `RSDEC` looks at. -/
theorem encodedBlockIsCodeword : Obligations.EncodedBlockIsCodeword := by
  unfold Obligations.EncodedBlockIsCodeword
  rintro s t a b c a0 n ec block hfield hcache - ha hb hc hexec hrun rfl
  obtain ⟨valid, hn, hec, hfits, hvalid, hgf, hsymbols, q, hq, hmultiple⟩ :=
    rsenc_leaves_codeword hfield hcache ha hb hc hexec hrun
  have hsyn : ∀ i, i < ec → syndromeAt s.gf (t.readRun a0 (n + ec)) i = 0 := by
    obtain ⟨hlegal, hbuilt⟩ := hfield valid
    rw [hbuilt] at hq hmultiple ⊢
    exact fun i => hlegal.syndromeAt_eq_zero hq hmultiple
  refine ⟨⟨q, hq, hmultiple⟩, hsyn, fun d a' b' c' ha' hb' hc' => ?_⟩
  rw [← hgf] at hsyn hsymbols
  refine exec_rsdec_of_syndromes_zero d ?_ ?_
  · rw [ha', hb', hc', requireBlock_eq_ok]
    exact ⟨hvalid, by omega, hfits, hsymbols, by omega⟩
  · rwa [ha', hb', hc']

end Sys2Proof.Machine
end

section
/-! PROOFS. The algebra behind the decoder (44_rs_decoder.md R181, R182), over any field: the error
locator and evaluator of a set of errors satisfy the key equation, and within the correction bound
every pair the Euclidean algorithm stops at is a constant multiple of them. -/

namespace Sys2Proof.Machine

open Polynomial

/-! ### Locator, evaluator, syndrome polynomial -/

section
variable {K : Type} [Field K]

/-- The polynomial whose roots are the inverses of the locations. -/
noncomputable def errorLocator (E : Finset ℕ) (loc : ℕ → K) : K[X] :=
  ∏ k ∈ E, (1 - C (loc k) * X)

/-- The polynomial that gives, at the inverse of a location, that location's error value `val`
times the locator's other factors. -/
noncomputable def errorEvaluator (E : Finset ℕ) (loc val : ℕ → K) : K[X] :=
  ∑ k ∈ E, C (val k) * errorLocator (E.erase k) loc

/-- The polynomial of the first `R` syndromes `S_i = ∑ val * loc^i`. -/
noncomputable def syndromeSum (E : Finset ℕ) (loc val : ℕ → K) (R : ℕ) : K[X] :=
  ∑ i ∈ Finset.range R, C (∑ k ∈ E, val k * loc k ^ i) * X ^ i

variable {E : Finset ℕ} {loc val : ℕ → K}

theorem errorLocator_factor_mul_erase {k : ℕ} (hk : k ∈ E) :
    (1 - C (loc k) * X) * errorLocator (E.erase k) loc = errorLocator E loc :=
  Finset.mul_prod_erase E (fun k => 1 - C (loc k) * X) hk

/-- One factor of the locator turns the geometric series of its location into `1 - (loc * X)^R`. -/
theorem factor_mul_geom_sum (x : K) (R : ℕ) :
    (1 - C x * X) * ∑ i ∈ Finset.range R, C (x ^ i) * X ^ i = 1 - C (x ^ R) * X ^ R := by
  have hterm : ∀ i, C (x ^ i) * X ^ i = (C x * X) ^ i := fun i => by rw [mul_pow, C_pow]
  rw [hterm, Finset.sum_congr rfl fun i _ => hterm i, mul_neg_geom_sum]

theorem syndromeSum_eq_sum (E : Finset ℕ) (loc val : ℕ → K) (R : ℕ) :
    syndromeSum E loc val R =
      ∑ k ∈ E, C (val k) * ∑ i ∈ Finset.range R, C (loc k ^ i) * X ^ i := by
  simp only [syndromeSum, map_sum, Finset.sum_mul, Finset.mul_sum, C_mul, mul_assoc]
  exact Finset.sum_comm

/-- The key equation of R182. -/
theorem X_pow_dvd_keyEquation (E : Finset ℕ) (loc val : ℕ → K) (R : ℕ) :
    X ^ R ∣ errorLocator E loc * syndromeSum E loc val R - errorEvaluator E loc val := by
  rw [syndromeSum_eq_sum, errorEvaluator, Finset.mul_sum, ← Finset.sum_sub_distrib]
  refine Finset.dvd_sum fun k hk =>
    ⟨-(C (val k) * errorLocator (E.erase k) loc * C (loc k ^ R)), ?_⟩
  rw [← errorLocator_factor_mul_erase hk]
  linear_combination C (val k) * errorLocator (E.erase k) loc * factor_mul_geom_sum (loc k) R

@[simp] theorem eval_zero_errorLocator : (errorLocator E loc).eval 0 = 1 := by
  simp [errorLocator, eval_prod]

theorem errorLocator_ne_zero : errorLocator E loc ≠ 0 := fun h => by
  have hone := eval_zero_errorLocator (E := E) (loc := loc)
  rw [h, eval_zero] at hone
  exact zero_ne_one hone

theorem natDegree_factor {x : K} (hx : x ≠ 0) : (1 - C x * X : K[X]).natDegree = 1 := by
  rw [show (1 - C x * X : K[X]) = C (-x) * X + C 1 by simp; ring]
  exact natDegree_linear (neg_ne_zero.2 hx)

theorem natDegree_errorLocator (hloc : ∀ k ∈ E, loc k ≠ 0) :
    (errorLocator E loc).natDegree = E.card := by
  have hfactor : ∀ k ∈ E, (1 - C (loc k) * X : K[X]).natDegree = 1 := fun k hk =>
    natDegree_factor (hloc k hk)
  rw [errorLocator, natDegree_prod _ _ fun k hk hzero => ?_, Finset.sum_congr rfl hfactor,
    Finset.sum_const, smul_eq_mul, mul_one]
  have hone := hfactor k hk
  rw [hzero, natDegree_zero] at hone
  exact zero_ne_one hone

theorem natDegree_errorEvaluator_le (hloc : ∀ k ∈ E, loc k ≠ 0) :
    (errorEvaluator E loc val).natDegree ≤ E.card - 1 := by
  refine natDegree_sum_le_of_forall_le E _ fun k hk => (natDegree_C_mul_le _ _).trans ?_
  rw [natDegree_errorLocator fun j hj => hloc j (Finset.mem_of_mem_erase hj),
    Finset.card_erase_of_mem hk]

theorem eval_inv_factor_eq_zero_iff {x y : K} (hy : y ≠ 0) :
    (1 - C x * X : K[X]).eval y⁻¹ = 0 ↔ x = y := by
  rw [eval_sub, eval_one, eval_mul, eval_C, eval_X, sub_eq_zero, eq_comm, mul_inv_eq_one₀ hy]

/-- The roots of the locator are the inverses of the locations. -/
theorem eval_inv_errorLocator_eq_zero_iff {y : K} (hy : y ≠ 0) :
    (errorLocator E loc).eval y⁻¹ = 0 ↔ ∃ k ∈ E, loc k = y := by
  rw [errorLocator, eval_prod, Finset.prod_eq_zero_iff]
  simp only [eval_inv_factor_eq_zero_iff hy]

/-- At the inverse of a location every other term of the evaluator vanishes. -/
theorem eval_errorEvaluator (hloc : ∀ k ∈ E, loc k ≠ 0) {k : ℕ} (hk : k ∈ E) :
    (errorEvaluator E loc val).eval (loc k)⁻¹ =
      val k * (errorLocator (E.erase k) loc).eval (loc k)⁻¹ := by
  rw [errorEvaluator, eval_finsetSum, Finset.sum_eq_single_of_mem k hk fun j _ hne => ?_, eval_mul,
    eval_C]
  rw [eval_mul, (eval_inv_errorLocator_eq_zero_iff (hloc k hk)).2
    ⟨k, Finset.mem_erase.2 ⟨hne.symm, hk⟩, rfl⟩, mul_zero]

theorem eval_errorLocator_erase_ne_zero (hloc : ∀ k ∈ E, loc k ≠ 0) (hinj : Set.InjOn loc E) {k : ℕ}
    (hk : k ∈ E) : (errorLocator (E.erase k) loc).eval (loc k)⁻¹ ≠ 0 := fun hzero => by
  obtain ⟨j, hj, he⟩ := (eval_inv_errorLocator_eq_zero_iff (hloc k hk)).1 hzero
  obtain ⟨hne, hjE⟩ := Finset.mem_erase.1 hj
  exact hne (hinj hjE hk he)

/-- Errors within the bound leave a syndrome that is not zero. -/
theorem syndromeSum_ne_zero (hE : E.Nonempty) (hloc : ∀ k ∈ E, loc k ≠ 0) (hinj : Set.InjOn loc E)
    (hval : ∀ k ∈ E, val k ≠ 0) {R : ℕ} (hcard : E.card ≤ R) : syndromeSum E loc val R ≠ 0 := by
  intro hzero
  obtain ⟨k, hk⟩ := hE
  have hpos := Finset.card_pos.2 ⟨k, hk⟩
  have hevaluator : errorEvaluator E loc val = 0 := by
    refine eq_zero_of_dvd_of_natDegree_lt (p := X ^ R) ?_ ?_
    · simpa [hzero] using X_pow_dvd_keyEquation E loc val R
    · have := natDegree_errorEvaluator_le (val := val) hloc
      rw [natDegree_X_pow]
      omega
  have heval := eval_errorEvaluator (val := val) hloc hk
  rw [hevaluator, eval_zero] at heval
  exact mul_ne_zero (hval k hk) (eval_errorLocator_erase_ne_zero hloc hinj hk) heval.symm

theorem isCoprime_factor {x y : K} (hne : x ≠ y) :
    IsCoprime (1 - C x * X : K[X]) (1 - C y * X) := by
  refine ⟨C (-(y / (x - y))), C (x / (x - y)), ?_⟩
  have hdiv : x / (x - y) - y / (x - y) = 1 := by rw [← sub_div, div_self (sub_ne_zero.2 hne)]
  have hcross : x / (x - y) * y - y / (x - y) * x = 0 := by ring
  have hdiv := congrArg C hdiv
  have hcross := congrArg C hcross
  rw [C_sub, C_1] at hdiv
  rw [C_sub, C_mul, C_mul, C_0] at hcross
  rw [C_neg]
  linear_combination hdiv - X * hcross

/-- A polynomial that vanishes at the inverse of every location is a multiple of the locator. -/
theorem errorLocator_dvd (hloc : ∀ k ∈ E, loc k ≠ 0) (hinj : Set.InjOn loc E) {p : K[X]}
    (hp : ∀ k ∈ E, p.eval (loc k)⁻¹ = 0) : errorLocator E loc ∣ p := by
  refine Finset.prod_dvd_of_coprime (fun j hj k hk hne => ?_) fun k hk => ?_
  · exact isCoprime_factor fun he => hne (hinj hj hk he)
  · have hfactor : (1 - C (loc k) * X : K[X]) = C (-loc k) * (X - C (loc k)⁻¹) := by
      rw [mul_sub, ← C_mul, neg_mul, mul_inv_cancel₀ (hloc k hk), C_neg, C_neg, C_1]
      ring
    rw [hfactor, IsUnit.mul_left_dvd (isUnit_C.2 (neg_ne_zero.2 (hloc k hk)).isUnit)]
    exact dvd_iff_isRoot.2 (hp k hk)

end

/-! ### The Euclidean algorithm on polynomials (R182) -/

section
variable {K : Type} [Field K] [CharP K 2]

/-- What holds before every pass of R182 for `x^R` and the syndrome polynomial `S`: `t` is the
Bézout coefficient of the remainder `r`, and `rLast`, `tLast` are those of the pass before. -/
structure EuclidStage (S : K[X]) (R : ℕ) (rLast r tLast t : K[X]) : Prop where
  bezout_last : X ^ R ∣ tLast * S - rLast
  bezout : X ^ R ∣ t * S - r
  cross : t * rLast + tLast * r = X ^ R
  degree : t.natDegree + rLast.natDegree ≤ R
  degree_last : tLast.natDegree + r.natDegree ≤ R
  falling : r.natDegree < rLast.natDegree
  not_done : R ≤ 2 * rLast.natDegree

omit [CharP K 2] in
theorem EuclidStage.start {S : K[X]} {R : ℕ} (hS : S.natDegree < R) :
    EuclidStage S R (X ^ R) S 0 1 where
  bezout_last := by simp
  bezout := by simp
  cross := by simp
  degree := by simp
  degree_last := by simpa using hS.le
  falling := by simpa using hS
  not_done := by simp; omega

/-- A pass with quotient `q` and remainder `r'`. -/
theorem EuclidStage.pass {S rLast r tLast t q r' : K[X]} {R : ℕ}
    (h : EuclidStage S R rLast r tLast t) (hgo : R ≤ 2 * r.natDegree)
    (hdiv : q * r + r' = rLast) (hr' : r'.natDegree < r.natDegree) :
    EuclidStage S R r r' t (q * t + tLast) := by
  have htwo : (2 : K[X]) = 0 := CharTwo.two_eq_zero
  have hq : (q * t).natDegree + r.natDegree ≤ R := by
    obtain rfl | hne := eq_or_ne q 0
    · simpa using h.degree_last.trans' (Nat.le_add_left _ _)
    have hr : r ≠ 0 := fun hzero => by simp [hzero] at hr'
    have hqr : (q * r).natDegree ≤ rLast.natDegree := by
      rw [show q * r = rLast - r' by rw [← hdiv]; ring]
      exact (natDegree_sub_le _ _).trans (max_le le_rfl (hr'.le.trans h.falling.le))
    rw [natDegree_mul hne hr] at hqr
    have := natDegree_mul_le (p := q) (q := t)
    have := h.degree
    omega
  obtain ⟨u, hu⟩ := h.bezout_last
  obtain ⟨v, hv⟩ := h.bezout
  refine ⟨h.bezout, ⟨q * v + u, ?_⟩, ?_, ?_, ?_, hr', hgo⟩
  · linear_combination q * hv + hu + q * r * htwo - hdiv
  · linear_combination h.cross + t * hdiv
  · have := natDegree_add_le (q * t) tLast
    have := h.degree_last
    omega
  · have := h.degree
    have := h.falling
    omega

end

/-! ### Stopping within the correction bound (R193) -/

section
variable {K : Type} [Field K] {S rLast r tLast t : K[X]} {R : ℕ} {E : Finset ℕ} {loc val : ℕ → K}

/-- Both sides agree modulo `x^R` by the key equation, and within the bound both have degree below
`R`. -/
theorem EuclidStage.mul_evaluator_eq (h : EuclidStage S R rLast r tLast t)
    (hstop : 2 * r.natDegree < R) (hloc : ∀ k ∈ E, loc k ≠ 0) (hcard : 2 * E.card ≤ R)
    (hkey : X ^ R ∣ errorLocator E loc * S - errorEvaluator E loc val) :
    t * errorEvaluator E loc val = r * errorLocator E loc := by
  refine sub_eq_zero.1 (eq_zero_of_dvd_of_natDegree_lt (p := X ^ R) ?_ ?_)
  · obtain ⟨u, hu⟩ := hkey
    obtain ⟨v, hv⟩ := h.bezout
    exact ⟨errorLocator E loc * v - t * u, by linear_combination errorLocator E loc * hv - t * hu⟩
  · have hevaluator := natDegree_errorEvaluator_le (val := val) hloc
    have hlocator := natDegree_errorLocator hloc
    have hleft := natDegree_mul_le (p := t) (q := errorEvaluator E loc val)
    have hright := natDegree_mul_le (p := r) (q := errorLocator E loc)
    have hsub := natDegree_sub_le (t * errorEvaluator E loc val) (r * errorLocator E loc)
    have hdegree := h.degree
    have hnot_done := h.not_done
    rw [natDegree_X_pow]
    omega

/-- The evaluator vanishes at no root of the locator, so `t` vanishes at all of them. -/
theorem errorLocator_dvd_of_mul_evaluator_eq (hloc : ∀ k ∈ E, loc k ≠ 0) (hinj : Set.InjOn loc E)
    (hval : ∀ k ∈ E, val k ≠ 0)
    (heq : t * errorEvaluator E loc val = r * errorLocator E loc) : errorLocator E loc ∣ t := by
  refine errorLocator_dvd hloc hinj fun k hk => ?_
  have heval := congrArg (eval (loc k)⁻¹) heq
  rw [eval_mul, eval_mul, (eval_inv_errorLocator_eq_zero_iff (hloc k hk)).2 ⟨k, hk, rfl⟩, mul_zero,
    eval_errorEvaluator hloc hk] at heval
  exact (mul_eq_zero.1 heval).resolve_right
    (mul_ne_zero (hval k hk) (eval_errorLocator_erase_ne_zero hloc hinj hk))

/-- A common factor of `t` and `r` divides `x^R`, with a quotient that is itself a multiple of
`x^R`. -/
theorem EuclidStage.isUnit_factor [CharP K 2] {m : K[X]}
    (h : EuclidStage S R rLast (m * errorEvaluator E loc val) tLast (errorLocator E loc * m))
    (hkey : X ^ R ∣ errorLocator E loc * S - errorEvaluator E loc val) : IsUnit m := by
  have htwo : (2 : K[X]) = 0 := CharTwo.two_eq_zero
  obtain ⟨u, hu⟩ := hkey
  obtain ⟨v, hv⟩ := h.bezout_last
  refine IsUnit.of_mul_eq_one (tLast * u - errorLocator E loc * v)
    (mul_right_cancel₀ (pow_ne_zero R X_ne_zero) ?_)
  linear_combination h.cross + m * errorLocator E loc * hv - m * tLast * hu - tLast * m *
    errorEvaluator E loc val * htwo

/-- Why the decoder corrects up to half as many errors as there are syndromes (R193): within that
bound the pair at which the algorithm stops is the locator and the evaluator, up to a constant. -/
theorem EuclidStage.eq_C_mul [CharP K 2] (h : EuclidStage S R rLast r tLast t)
    (hstop : 2 * r.natDegree < R) (hloc : ∀ k ∈ E, loc k ≠ 0) (hinj : Set.InjOn loc E)
    (hval : ∀ k ∈ E, val k ≠ 0) (hcard : 2 * E.card ≤ R)
    (hkey : X ^ R ∣ errorLocator E loc * S - errorEvaluator E loc val) :
    ∃ c : K, c ≠ 0 ∧ t = C c * errorLocator E loc ∧ r = C c * errorEvaluator E loc val := by
  have heq := h.mul_evaluator_eq hstop hloc hcard hkey
  obtain ⟨m, rfl⟩ := errorLocator_dvd_of_mul_evaluator_eq hloc hinj hval heq
  obtain rfl : r = m * errorEvaluator E loc val :=
    mul_right_cancel₀ errorLocator_ne_zero (by linear_combination -heq)
  obtain ⟨c, hc, rfl⟩ := Polynomial.isUnit_iff.1 (h.isUnit_factor hkey)
  exact ⟨c, hc.ne_zero, mul_comm _ _, rfl⟩

end

end Sys2Proof.Machine
end

section
/-! PROOFS. The symbols of a legal field inside a field of characteristic 2 (41_gf_scalar.md R112 to
R115), and what the lists of 42_gf_poly.md say about their polynomials over it. -/

namespace Sys2Proof.Machine

open Polynomial

/-! ### The field -/

theorem IsFieldMap.map_eq_zero_iff {f : GF} {K : Type} [CommRing K] {φ : Word → K}
    (hφ : IsFieldMap f φ) (hzero : IsSymbol f 0) {x : Word} (hx : IsSymbol f x) :
    φ x = 0 ↔ x = 0 :=
  ⟨fun h => hφ.injOn hx hzero (h.trans hφ.map_zero.symm), fun h => h ▸ hφ.map_zero⟩

/-- A difference of two symbols that lies in a proper ideal is no unit, so it is zero: the symbols
embed in every residue field of their ring. -/
theorem LegalField.exists_isFieldMap_field {P N : Nat} (h : LegalField P N) (b : Nat) :
    ∃ (K : Type) (_ : Field K) (_ : CharP K 2) (φ : Word → K), IsFieldMap (builtField P N b) φ := by
  obtain ⟨A, _, φ, hφ⟩ := h.exists_isFieldMap b
  have : Nontrivial A := ⟨φ 0, φ 1, fun he =>
    absurd (hφ.injOn (h.isSymbol_zero b) (h.isSymbol_one b) he) (by decide)⟩
  obtain ⟨I, hI⟩ := Ideal.exists_maximal A
  let _ : Field (A ⧸ I) := Ideal.Quotient.field I
  have hψ : IsFieldMap (builtField P N b) (fun x => Ideal.Quotient.mk I (φ x)) := by
    refine ⟨by rw [hφ.map_zero, map_zero], by rw [hφ.map_one, map_one],
      fun hx hy => by rw [hφ.map_add hx hy, map_add],
      fun hx hy => by rw [hφ.map_mul hx hy, map_mul],
      fun x hx y hy he => ?_⟩
    have hsum := h.isSymbol_gfAdd b hx hy
    have hzero : Ideal.Quotient.mk I (φ (gfAdd x y)) = 0 := by
      rw [hφ.map_add hx hy, map_add, he, ← map_add, ← hφ.map_add hy hy, gfAdd_self, hφ.map_zero,
        map_zero]
    by_contra hne
    have hone := congrArg (Ideal.Quotient.mk I ∘ φ)
      (h.gfMul_gfInv b hsum fun hxy => hne (BitVec.xor_eq_zero_iff.1 hxy))
    simp only [Function.comp_apply, hφ.map_mul hsum (h.isSymbol_gfInv b hsum), map_mul, hzero,
      zero_mul, hφ.map_one, map_one] at hone
    exact zero_ne_one hone
  refine ⟨A ⧸ I, inferInstance, CharTwo.of_one_ne_zero_of_two_eq_zero one_ne_zero ?_, _, hψ⟩
  have htwo := hψ.map_add (h.isSymbol_one b) (h.isSymbol_one b)
  rw [gfAdd_self, hψ.map_zero, hψ.map_one, one_add_one_eq_two] at htwo
  exact htwo.symm

section
variable {P N b : Nat} {K : Type} [Field K] {φ : Word → K}

theorem LegalField.map_ne_zero (h : LegalField P N) (hφ : IsFieldMap (builtField P N b) φ)
    {x : Word} (hx : IsSymbol (builtField P N b) x) (hne : x ≠ 0) : φ x ≠ 0 :=
  mt (hφ.map_eq_zero_iff (h.isSymbol_zero b) hx).1 hne

theorem LegalField.map_gfInv (h : LegalField P N) (hφ : IsFieldMap (builtField P N b) φ) {x : Word}
    (hx : IsSymbol (builtField P N b) x) (hne : x ≠ 0) :
    φ (gfInv (builtField P N b) x) = (φ x)⁻¹ := by
  refine eq_inv_of_mul_eq_one_right ?_
  rw [← hφ.map_mul hx (h.isSymbol_gfInv b hx), h.gfMul_gfInv b hx hne, hφ.map_one]

theorem LegalField.gfInv_ne_zero (h : LegalField P N) {x : Word}
    (hx : IsSymbol (builtField P N b) x) (hne : x ≠ 0) : gfInv (builtField P N b) x ≠ 0 := by
  intro hzero
  have hone := h.gfMul_gfInv b hx hne
  rw [hzero, gfMul_zero_right] at hone
  exact absurd hone (by decide)

theorem LegalField.map_alphaPow (h : LegalField P N) (hφ : IsFieldMap (builtField P N b) φ)
    (k : Nat) : φ (alphaPow (builtField P N b) k) = φ (alphaPow (builtField P N b) 1) ^ k := by
  induction k with
  | zero => rw [h.alphaPow_zero, hφ.map_one, pow_zero]
  | succ k ih =>
    rw [← h.gfMul_alphaPow, hφ.map_mul (h.isSymbol_alphaPow b k) (h.isSymbol_alphaPow b 1), ih,
      pow_succ]

end

/-! ### Lists given by their entries -/

section
variable {K : Type} [Field K] {φ : Word → K} {f : GF}

/-- Lowest degree first, as R181 has the syndromes. -/
theorem toPolynomial_reverse_map_range (g : ℕ → Word) (n : ℕ) :
    toPolynomial φ ((List.range n).map g).reverse = ∑ i ∈ Finset.range n, C (φ (g i)) * X ^ i := by
  induction n with
  | zero => rfl
  | succ n ih =>
    rw [List.range_succ, List.map_append, List.reverse_append, List.map_singleton,
      List.reverse_singleton, List.singleton_append, toPolynomial, ih, List.length_reverse,
      List.length_map, List.length_range, Finset.sum_range_succ, add_comm]

/-- Highest degree first, as a block of DMEM words is read (R180). -/
theorem toPolynomial_map_range (g : ℕ → Word) (n : ℕ) :
    toPolynomial φ ((List.range n).map g) =
      ∑ k ∈ Finset.range n, C (φ (g k)) * X ^ (n - 1 - k) := by
  induction n generalizing g with
  | zero => rfl
  | succ n ih =>
    rw [List.range_succ_eq_map, List.map_cons, List.map_map, toPolynomial, ih, List.length_map,
      List.length_range, Finset.sum_range_succ', add_comm]
    refine congrArg (· + _) (Finset.sum_congr rfl fun k _ => ?_)
    rw [Function.comp_apply, show n + 1 - 1 - (k + 1) = n - 1 - k by omega]

/-! ### Degree, zero, constant coefficient (R132, R133) -/

theorem natDegree_toPolynomial_cons (hφ : IsFieldMap f φ) (hzero : IsSymbol f 0) {c : Word}
    (hc : IsSymbol f c) (hne : c ≠ 0) (p : Poly) :
    (toPolynomial φ (c :: p)).natDegree = p.length := by
  refine le_antisymm (natDegree_le_iff_coeff_eq_zero.2 fun k hk =>
    coeff_toPolynomial_of_length_le _ hk) (le_natDegree_of_ne_zero ?_)
  rw [toPolynomial, coeff_add, coeff_C_mul_X_pow, if_pos rfl,
    coeff_toPolynomial_of_length_le p le_rfl, add_zero]
  exact mt (hφ.map_eq_zero_iff hzero hc).1 hne

theorem LegalField.natDegree_toPolynomial {P N b : Nat} (h : LegalField P N)
    (hφ : IsFieldMap (builtField P N b) φ) {p : Poly} (hp : IsPoly (builtField P N b) p) :
    (toPolynomial φ p).natDegree = deg p := by
  obtain rfl | ⟨c, l, rfl, hne, hc, -⟩ := hp.eq_zero_or_cons
  · rw [show toPolynomial φ [0] = 0 from hφ.toPolynomial_zeros 1, natDegree_zero]
    rfl
  · exact natDegree_toPolynomial_cons hφ (h.isSymbol_zero b) hc hne l

theorem LegalField.isSymbol_coef {P N b : Nat} (h : LegalField P N) {p : Poly}
    (hp : AreSymbols (builtField P N b) p) (k : Nat) :
    IsSymbol (builtField P N b) (coef p k) := by
  unfold coef
  split
  · rw [List.getD_eq_getElem p 0 (by omega)]
    exact hp _ (List.getElem_mem _)
  · exact h.isSymbol_zero b

theorem IsFieldMap.map_coef_zero (hφ : IsFieldMap f φ) (p : Poly) :
    φ (coef p 0) = (toPolynomial φ p).eval 0 := by
  induction p with
  | nil => simpa [coef, toPolynomial] using hφ.map_zero
  | cons c p ih =>
    cases p with
    | nil => simp [coef, toPolynomial]
    | cons d p =>
      rw [toPolynomial, eval_add, ← ih]
      simp [coef]

end
end Sys2Proof.Machine
end

section
/-! PROOFS. The Euclidean step on lists (44_rs_decoder.md R182): its loop keeps the stages of the
polynomial algorithm, never meets a zero remainder, and ends before its passes run out. -/

namespace Sys2Proof.Machine

open Polynomial

section
variable {P N b : Nat} {K : Type} [Field K] [CharP K 2] {φ : Word → K}

/-- The loop of R182 stands at a stage of the algorithm for `S`. -/
structure EuclidLists (f : GF) (φ : Word → K) (S : K[X]) (R : ℕ) (rLast r tLast t : Poly) :
    Prop where
  isPoly_rLast : IsPoly f rLast
  isPoly_r : IsPoly f r
  isPoly_tLast : IsPoly f tLast
  isPoly_t : IsPoly f t
  stage : EuclidStage S R (toPolynomial φ rLast) (toPolynomial φ r) (toPolynomial φ tLast)
    (toPolynomial φ t)

omit [CharP K 2] in
theorem LegalField.euclidLists_start (h : LegalField P N) (hφ : IsFieldMap (builtField P N b) φ)
    {syn : Poly} {R : ℕ} (hsyn : IsPoly (builtField P N b) syn)
    (hdeg : (toPolynomial φ syn).natDegree < R) :
    EuclidLists (builtField P N b) φ (toPolynomial φ syn) R (polyMono R 1) syn [0] [1] where
  isPoly_rLast := h.isPoly_polyMono b R (h.isSymbol_one b)
  isPoly_r := hsyn
  isPoly_tLast := h.isPoly_zero b
  isPoly_t := isPoly_cons (by decide) (h.isSymbol_one b) (List.forall_mem_nil _)
  stage := by
    have hone : toPolynomial φ [1] = 1 := by
      rw [toPolynomial, toPolynomial, hφ.map_one, C_1, one_mul, List.length_nil, pow_zero, add_zero]
    rw [hφ.toPolynomial_polyMono, hφ.map_one, C_1, one_mul, hone,
      show toPolynomial φ [0] = 0 from hφ.toPolynomial_zeros 1]
    exact .start hdeg

/-- A pass: the division succeeds, and the next stage has a shorter remainder. -/
theorem LegalField.euclidLists_pass (h : LegalField P N) (hφ : IsFieldMap (builtField P N b) φ)
    {S : K[X]} {R : ℕ} {rLast r tLast t : Poly}
    (hlists : EuclidLists (builtField P N b) φ S R rLast r tLast t) (hR : 0 < R)
    (hgo : R ≤ 2 * deg r) :
    isZero r = false ∧ ∃ q r', polyDivmod (builtField P N b) rLast r = .ok (q, r') ∧
      deg r' < deg r ∧ EuclidLists (builtField P N b) φ S R r r' t
        (polyAdd (polyMul (builtField P N b) q t) tLast) := by
  obtain ⟨hrLast, hr, htLast, ht, hstage⟩ := hlists
  have hrne : isZero r = false := by
    obtain rfl | ⟨c, l, rfl, hne, -⟩ := hr.eq_zero_or_cons
    · exact absurd hgo (Nat.not_le.2 hR)
    · exact isZero_cons hne l
  obtain ⟨q, r', hdivmod, ⟨hq, hr', hid⟩, hshort⟩ := h.exists_polyDivmod hφ hrLast hr hrne
  have hlt : deg r' < deg r := by
    have hpos := List.length_pos_of_ne_nil hr'.1
    unfold deg at hgo ⊢
    obtain rfl | hlt := hshort
    · rw [List.length_singleton]
      omega
    · omega
  have hqt := h.isPoly_polyMul b hq ht
  refine ⟨hrne, q, r', hdivmod, hlt, hr, hr', ht, h.isPoly_polyAdd b hqt htLast, ?_⟩
  rw [h.toPolynomial_polyAdd hφ hqt.2.1 htLast.2.1, h.toPolynomial_polyMul hφ hq ht]
  refine hstage.pass ?_ hid ?_
  · rwa [h.natDegree_toPolynomial hφ hr]
  · rwa [h.natDegree_toPolynomial hφ hr, h.natDegree_toPolynomial hφ hr']

theorem LegalField.exists_euclidLoop (h : LegalField P N) (hφ : IsFieldMap (builtField P N b) φ)
    {S : K[X]} {R fuel : ℕ} {rLast r tLast t : Poly}
    (hlists : EuclidLists (builtField P N b) φ S R rLast r tLast t) (hR : 0 < R)
    (hfuel : deg r < fuel) :
    ∃ rLast' r' tLast' t', euclidLoop (builtField P N b) R fuel rLast r tLast t = .ok (t', r') ∧
      EuclidLists (builtField P N b) φ S R rLast' r' tLast' t' ∧ 2 * deg r' < R := by
  induction fuel generalizing rLast r tLast t with
  | zero => cases hfuel
  | succ fuel ih =>
    by_cases hgo : R ≤ 2 * deg r
    · obtain ⟨hrne, q, r', hdivmod, hlt, hnext⟩ := h.euclidLists_pass hφ hlists hR hgo
      rw [euclidLoop, if_pos hgo, hrne, if_neg Bool.false_ne_true, hdivmod]
      exact ih hnext (by omega)
    · rw [euclidLoop, if_neg hgo]
      exact ⟨rLast, r, tLast, t, rfl, hlists, Nat.lt_of_not_le hgo⟩

/-- What R182 answers: the pair at which the loop stops, scaled to constant term 1, or
`RsSigmaZero`. -/
theorem LegalField.exists_rsEuclid (h : LegalField P N) (hφ : IsFieldMap (builtField P N b) φ)
    {syn : Poly} {R : ℕ} (hsyn : IsPoly (builtField P N b) syn)
    (hdeg : (toPolynomial φ syn).natDegree < R) (hR : R ≤ 4095) :
    ∃ rLast r tLast t,
      EuclidLists (builtField P N b) φ (toPolynomial φ syn) R rLast r tLast t ∧ 2 * deg r < R ∧
      rsEuclid (builtField P N b) syn R =
        if coef t 0 = 0 then .error ⟨.rsSigmaZero, 0⟩
        else .ok (polyMul (builtField P N b) t [gfInv (builtField P N b) (coef t 0)],
          polyMul (builtField P N b) r [gfInv (builtField P N b) (coef t 0)]) := by
  obtain ⟨rLast, r, tLast, t, hloop, hlists, hstop⟩ :=
    h.exists_euclidLoop (fuel := max R (deg syn) + 3) hφ (h.euclidLists_start hφ hsyn hdeg)
      (by omega) (by omega)
  refine ⟨rLast, r, tLast, t, hlists, hstop, ?_⟩
  rw [rsEuclid, if_neg (by unfold Config.vmax; omega), hloop]
  simp only [pure_eq_ok, ok_bind]
  split <;> rfl

end
end Sys2Proof.Machine
end

section
/-! PROOFS. Syndromes, Chien search and Forney's formula on a legal field (44_rs_decoder.md R180,
R181, R183, R184). -/

namespace Sys2Proof.Machine

open Polynomial

section
variable {P N b : Nat}

/-! ### Syndromes (R180, R181) -/

theorem LegalField.isSymbol_syndromeAt (h : LegalField P N) {block : List Word} (hne : block ≠ [])
    (hblock : AreSymbols (builtField P N b) block) (i : Nat) :
    IsSymbol (builtField P N b) (syndromeAt (builtField P N b) block i) :=
  h.isSymbol_polyEval (h.isSymbol_alphaPow b _) (isPoly_norm hne hblock).2.1

theorem LegalField.isPoly_synPoly (h : LegalField P N) {l : List Word}
    (hl : AreSymbols (builtField P N b) l) : IsPoly (builtField P N b) (synPoly l) :=
  isPoly_norm (List.cons_ne_nil _ _)
    (areSymbols_cons.2 ⟨h.isSymbol_zero b, fun a ha => hl a (List.mem_reverse.1 ha)⟩)

theorem LegalField.areSymbols_rsSyndromes (h : LegalField P N) {block : List Word}
    (hne : block ≠ []) (hblock : AreSymbols (builtField P N b) block) (R : Nat) :
    AreSymbols (builtField P N b) (rsSyndromes (builtField P N b) block R) :=
  List.forall_mem_map.2 fun i _ => h.isSymbol_syndromeAt hne hblock i

section
variable {f : GF} {K : Type} [Field K] {φ : Word → K}

theorem IsFieldMap.toPolynomial_synPoly (hφ : IsFieldMap f φ) (l : List Word) :
    toPolynomial φ (synPoly l) = toPolynomial φ l.reverse := by
  rw [synPoly, hφ.toPolynomial_norm, hφ.toPolynomial_zero_cons]

theorem IsFieldMap.toPolynomial_synPoly_rsSyndromes (hφ : IsFieldMap f φ) (block : List Word)
    (R : Nat) :
    toPolynomial φ (synPoly (rsSyndromes f block R)) =
      ∑ i ∈ Finset.range R, C (φ (syndromeAt f block i)) * X ^ i :=
  (hφ.toPolynomial_synPoly _).trans (toPolynomial_reverse_map_range _ R)

theorem IsFieldMap.natDegree_synPoly_lt (hφ : IsFieldMap f φ) {l : List Word} (hl : 0 < l.length) :
    (toPolynomial φ (synPoly l)).natDegree < l.length := by
  have hle : (toPolynomial φ (synPoly l)).natDegree ≤ l.length - 1 := by
    rw [hφ.toPolynomial_synPoly, natDegree_le_iff_coeff_eq_zero]
    exact fun k hk => coeff_toPolynomial_of_length_le _ (by rw [List.length_reverse]; omega)
  omega

end

theorem all_rsSyndromes_eq_true (f : GF) (block : List Word) (R : Nat) :
    (rsSyndromes f block R).all (· == 0) = true ↔ ∀ i < R, syndromeAt f block i = 0 := by
  simp only [rsSyndromes, List.all_eq_true, List.forall_mem_map, List.mem_range, beq_iff_eq]
  rfl

/-! ### Chien search (R183) -/

theorem LegalField.mem_nonzeroElements (h : LegalField P N) {x : Word} :
    x ∈ nonzeroElements (builtField P N b) ↔ IsSymbol (builtField P N b) x ∧ x ≠ 0 := by
  have hN := h.le_4096
  simp only [nonzeroElements, List.mem_map, List.mem_range'_1, size_builtField, IsSymbol]
  constructor
  · rintro ⟨i, hi, rfl⟩
    have hi' : (BitVec.ofNat 16 i).toNat = i :=
      BitVec.toNat_ofNat i 16 ▸ Nat.mod_eq_of_lt (by omega)
    refine ⟨by omega, fun hzero => ?_⟩
    rw [hzero] at hi'
    change 0 = i at hi'
    omega
  · rintro ⟨hx, hne⟩
    have hpos : x.toNat ≠ 0 := fun hzero => hne (BitVec.eq_of_toNat_eq hzero)
    exact ⟨x.toNat, by omega, BitVec.ofNat_toNat 16 x ▸ BitVec.setWidth_eq x⟩

theorem LegalField.nodup_nonzeroElements (h : LegalField P N) :
    (nonzeroElements (builtField P N b)).Nodup := by
  have hN := h.le_4096
  refine List.Nodup.map_on (fun i hi j hj he => ?_) List.nodup_range'
  rw [List.mem_range'_1, size_builtField] at hi hj
  have he := congrArg BitVec.toNat he
  rwa [BitVec.toNat_ofNat, BitVec.toNat_ofNat, Nat.mod_eq_of_lt (by omega),
    Nat.mod_eq_of_lt (by omega)] at he

theorem LegalField.mem_chienSearch (h : LegalField P N) {sigma : Poly} {x : Word} :
    x ∈ chienSearch (builtField P N b) sigma ↔
      IsSymbol (builtField P N b) x ∧ x ≠ 0 ∧
        polyEval (builtField P N b) sigma (gfInv (builtField P N b) x) = 0 := by
  simp only [chienSearch, List.mem_map, List.mem_filter, h.mem_nonzeroElements, beq_iff_eq]
  constructor
  · rintro ⟨y, ⟨⟨hy, hne⟩, hroot⟩, rfl⟩
    exact ⟨h.isSymbol_gfInv b hy, h.gfInv_ne_zero hy hne, by rwa [h.gfInv_gfInv b hy hne]⟩
  · rintro ⟨hx, hne, hroot⟩
    exact ⟨_, ⟨⟨h.isSymbol_gfInv b hx, h.gfInv_ne_zero hx hne⟩, hroot⟩, h.gfInv_gfInv b hx hne⟩

/-- Different roots have different inverses. -/
theorem LegalField.nodup_chienSearch (h : LegalField P N) (sigma : Poly) :
    (chienSearch (builtField P N b) sigma).Nodup := by
  refine List.Nodup.map_on (fun x hx y hy he => ?_) (h.nodup_nonzeroElements.filter _)
  obtain ⟨hx, hxne⟩ := h.mem_nonzeroElements.1 (List.mem_of_mem_filter hx)
  obtain ⟨hy, hyne⟩ := h.mem_nonzeroElements.1 (List.mem_of_mem_filter hy)
  rw [← h.gfInv_gfInv b hx hxne, he, h.gfInv_gfInv b hy hyne]

theorem length_chienSearch_le (f : GF) (sigma : Poly) :
    (chienSearch f sigma).length ≤ f.size - 1 := by
  rw [chienSearch, List.length_map]
  refine (List.length_filter_le _ _).trans_eq ?_
  rw [nonzeroElements, List.length_map, List.length_range']

/-! ### Forney's formula (R184) -/

/-- The factors of R184's denominator for the locations of `l`, multiplied onto `den`. -/
def multiplyFactors (f : GF) (xiInv : Word) (l : List Word) (den : Word) : Word :=
  l.foldl (fun den loc => gfMul f den (gfAdd 1 (gfMul f loc xiInv))) den

theorem forneyDen_of_lt (f : GF) {i j : Nat} (hij : i < j) (xiInv : Word) (l : List Word)
    (den : Word) : forneyDen f i xiInv j l den = multiplyFactors f xiInv l den := by
  induction l generalizing j den with
  | nil => rfl
  | cons loc l ih =>
    rw [forneyDen, if_neg (by omega), ih (by omega)]
    rfl

/-- The loop over `j != i` multiplies the factors of the list without entry `i`. -/
theorem forneyDen_add (f : GF) (j k : Nat) (xiInv : Word) (l : List Word) (den : Word) :
    forneyDen f (j + k) xiInv j l den = multiplyFactors f xiInv (l.eraseIdx k) den := by
  induction l generalizing j k den with
  | nil => rfl
  | cons loc l ih =>
    cases k with
    | zero =>
      rw [forneyDen, if_pos (Nat.add_zero j).symm, forneyDen_of_lt f (by omega)]
      rfl
    | succ k =>
      rw [forneyDen, if_neg (by omega), show j + (k + 1) = j + 1 + k by omega, ih]
      rfl

/-- The magnitude of R184 for a location of a list without repetitions. -/
def magnitudeOf (f : GF) (omega : Poly) (locs : List Word) (loc : Word) : Word :=
  forneyMagnitude f omega (gfInv f loc) (multiplyFactors f (gfInv f loc) (locs.erase loc) 1)

/-- What R183 guarantees of its list: symbols, not zero, no repetition. -/
structure AreLocations (f : GF) (locs : List Word) : Prop where
  isSymbol : ∀ x ∈ locs, IsSymbol f x
  ne_zero : ∀ x ∈ locs, x ≠ 0
  nodup : locs.Nodup

theorem LegalField.areLocations_chienSearch (h : LegalField P N) (sigma : Poly) :
    AreLocations (builtField P N b) (chienSearch (builtField P N b) sigma) :=
  ⟨fun _ hx => (h.mem_chienSearch.1 hx).1, fun _ hx => (h.mem_chienSearch.1 hx).2.1,
    h.nodup_chienSearch sigma⟩

section
variable {K : Type} [Field K] {φ : Word → K}

theorem LegalField.map_multiplyFactors (h : LegalField P N) (hφ : IsFieldMap (builtField P N b) φ)
    {l : List Word} {xiInv den : Word} (hl : AreSymbols (builtField P N b) l)
    (hxi : IsSymbol (builtField P N b) xiInv) (hden : IsSymbol (builtField P N b) den) :
    IsSymbol (builtField P N b) (multiplyFactors (builtField P N b) xiInv l den) ∧
      φ (multiplyFactors (builtField P N b) xiInv l den) =
        φ den * (l.map fun x => 1 + φ x * φ xiInv).prod := by
  induction l generalizing den with
  | nil => exact ⟨hden, (mul_one _).symm⟩
  | cons x l ih =>
    obtain ⟨hx, hl⟩ := areSymbols_cons.1 hl
    have hproduct := h.isSymbol_gfMul b hx hxi
    have hfactor := h.isSymbol_gfAdd b (h.isSymbol_one b) hproduct
    obtain ⟨hs, he⟩ := ih hl (h.isSymbol_gfMul b hden hfactor)
    refine ⟨hs, he.trans ?_⟩
    rw [hφ.map_mul hden hfactor, hφ.map_add (h.isSymbol_one b) hproduct, hφ.map_one,
      hφ.map_mul hx hxi, List.map_cons, List.prod_cons, mul_assoc]

theorem AreLocations.areSymbols_erase {f : GF} {locs : List Word} (hlocs : AreLocations f locs)
    (loc : Word) : AreSymbols f (locs.erase loc) := fun x hx =>
  hlocs.isSymbol x (List.mem_of_mem_erase hx)

/-- The denominator of R184 as an element of the field. -/
theorem LegalField.map_denominator (h : LegalField P N) (hφ : IsFieldMap (builtField P N b) φ)
    {locs : List Word} (hlocs : AreLocations (builtField P N b) locs) {loc : Word}
    (hloc : loc ∈ locs) :
    φ (multiplyFactors (builtField P N b) (gfInv (builtField P N b) loc) (locs.erase loc) 1) =
      ((locs.erase loc).map fun x => 1 + φ x * (φ loc)⁻¹).prod := by
  have hs := hlocs.isSymbol loc hloc
  rw [(h.map_multiplyFactors hφ (hlocs.areSymbols_erase loc) (h.isSymbol_gfInv b hs)
    (h.isSymbol_one b)).2, h.map_gfInv hφ hs (hlocs.ne_zero loc hloc), hφ.map_one, one_mul]

/-- Different locations make a denominator that is not zero. -/
theorem LegalField.denominator_ne_zero (h : LegalField P N) {locs : List Word}
    (hlocs : AreLocations (builtField P N b) locs) {loc : Word} (hloc : loc ∈ locs) :
    multiplyFactors (builtField P N b) (gfInv (builtField P N b) loc) (locs.erase loc) 1 ≠ 0 := by
  obtain ⟨K, _, _, φ, hφ⟩ := h.exists_isFieldMap_field b
  have hs := hlocs.isSymbol loc hloc
  have hne := h.map_ne_zero hφ hs (hlocs.ne_zero loc hloc)
  intro hzero
  have hprod := h.map_denominator hφ hlocs hloc
  rw [hzero, hφ.map_zero, eq_comm, List.prod_eq_zero_iff, List.mem_map] at hprod
  obtain ⟨x, hx, hfactor⟩ := hprod
  obtain ⟨hxne, hxmem⟩ := hlocs.nodup.mem_erase_iff.1 hx
  refine hxne (hφ.injOn (hlocs.isSymbol x hxmem) hs ?_)
  rw [add_comm, CharTwo.add_eq_zero, mul_inv_eq_one₀ hne] at hfactor
  exact hfactor

end

theorem LegalField.isSymbol_magnitudeOf (h : LegalField P N) {omega : Poly}
    (homega : IsPoly (builtField P N b) omega) {locs : List Word}
    (hlocs : AreLocations (builtField P N b) locs) {loc : Word} (hloc : loc ∈ locs) :
    IsSymbol (builtField P N b) (magnitudeOf (builtField P N b) omega locs loc) := by
  obtain ⟨K, _, _, φ, hφ⟩ := h.exists_isFieldMap_field b
  have hinv := h.isSymbol_gfInv b (hlocs.isSymbol loc hloc)
  have hden := (h.map_multiplyFactors hφ (hlocs.areSymbols_erase loc) hinv (h.isSymbol_one b)).1
  have hmul := h.isSymbol_gfMul b (h.isSymbol_polyEval hinv homega.2.1) (h.isSymbol_gfInv b hden)
  unfold magnitudeOf forneyMagnitude
  split
  · exact hmul
  · exact h.isSymbol_gfMul b hmul hinv

/-- From the entry with index `before.length` on, the loop of R184 meets neither zero. -/
theorem LegalField.forneyLoop_eq_ok (h : LegalField P N) (omega : Poly) {locs : List Word}
    (hlocs : AreLocations (builtField P N b) locs) (before rest : List Word)
    (hsplit : locs = before ++ rest) :
    forneyLoop (builtField P N b) omega locs before.length rest =
      .ok (rest.map (magnitudeOf (builtField P N b) omega locs)) := by
  induction rest generalizing before with
  | nil => rfl
  | cons loc rest ih =>
    have hloc : loc ∈ locs := hsplit ▸ List.mem_append_right _ List.mem_cons_self
    have hentry : locs[before.length]? = some loc := by simp [hsplit]
    have hden : forneyDen (builtField P N b) before.length (gfInv (builtField P N b) loc) 0 locs 1 =
        multiplyFactors (builtField P N b) (gfInv (builtField P N b) loc) (locs.erase loc) 1 := by
      obtain ⟨hlt, rfl⟩ := List.getElem?_eq_some_iff.1 hentry
      rw [hlocs.nodup.erase_getElem, ← forneyDen_add, Nat.zero_add]
    have hrest := ih (before ++ [loc]) (by rw [hsplit, List.append_assoc, List.singleton_append])
    rw [List.length_append, List.length_singleton] at hrest
    rw [forneyLoop, if_neg (hlocs.ne_zero loc hloc), hden,
      if_neg (h.denominator_ne_zero hlocs hloc), hrest]
    rfl

theorem LegalField.rsForney_eq_ok (h : LegalField P N) (omega : Poly) {locs : List Word}
    (hlocs : AreLocations (builtField P N b) locs) :
    rsForney (builtField P N b) omega locs =
      .ok (locs.map (magnitudeOf (builtField P N b) omega locs)) :=
  h.forneyLoop_eq_ok omega hlocs [] locs rfl

end
end Sys2Proof.Machine
end

section
/-! PROOFS. Steps 2 to 4 of the decoder (44_rs_decoder.md R192): what they can answer on any block,
and that within the correction bound they answer exactly the errors (R193). -/

namespace Sys2Proof.Machine

open Polynomial

section
variable {P N b : Nat}

@[simp] theorem base_builtField (P N b : Nat) : (builtField P N b).base = b := rfl

/-! ### Any block -/

/-- The syndromes of a block, not all zero, send steps 2 to 4 to causes 15 or 16 or to a list of
locations with their magnitudes: the Euclidean step meets no zero remainder and Forney's formula no
zero denominator. -/
theorem LegalField.rsLocate_cases (h : LegalField P N) {syndromes : List Word} {R : Nat}
    (hsyn : AreSymbols (builtField P N b) syndromes) (hlen : syndromes.length = R) (hpos : 0 < R)
    (hR : R ≤ 4095) :
    (∃ e, rsLocate (builtField P N b) syndromes R = .error e ∧
      (e.cause = .rsSigmaZero ∨ e.cause = .rsLocatorMismatch)) ∨
    ∃ locs mags, rsLocate (builtField P N b) syndromes R = .ok (locs, mags) ∧
      AreLocations (builtField P N b) locs ∧ locs.length ≤ N - 1 ∧ mags.length = locs.length := by
  obtain ⟨K, _, _, φ, hφ⟩ := h.exists_isFieldMap_field b
  subst hlen
  obtain ⟨-, r, -, t, -, -, heuclid⟩ :=
    h.exists_rsEuclid hφ (h.isPoly_synPoly hsyn) (hφ.natDegree_synPoly_lt hpos) hR
  rw [rsLocate, heuclid]
  split
  · exact .inl ⟨_, rfl, .inl rfl⟩
  rw [ok_bind]
  dsimp only
  rw [rsChien]
  split
  · exact .inl ⟨_, rfl, .inr rfl⟩
  · rw [ok_bind, h.rsForney_eq_ok _ (h.areLocations_chienSearch _)]
    exact .inr ⟨_, _, rfl, h.areLocations_chienSearch _, length_chienSearch_le _ _, by simp⟩

/-! ### The errors of a block -/

/-- The location of word `k` of a block of `n` words (R185). -/
def locationOf (f : GF) (n k : Nat) : Word := alphaPow f (n - 1 - k)

theorem LegalField.locationOf_inj (h : LegalField P N) {n j k : Nat} (hn : n ≤ N - 1) (hj : j < n)
    (hk : k < n) (he : locationOf (builtField P N b) n j = locationOf (builtField P N b) n k) :
    j = k := by
  have hlog := congrArg (logAt (builtField P N b)) he
  rw [locationOf, locationOf, h.logAt_alphaPow, h.logAt_alphaPow, Nat.mod_eq_of_lt (by omega),
    Nat.mod_eq_of_lt (by omega)] at hlog
  omega

/-- The correction at the location of word `k` goes to word `k`. -/
theorem LegalField.correctionAddress_locationOf (h : LegalField P N) {n k : Nat} (a0 : Nat)
    (hn : n ≤ N - 1) (hk : k < n) :
    correctionAddress (builtField P N b) a0 n (locationOf (builtField P N b) n k) = a0 + k := by
  rw [correctionAddress, locationOf, h.logAt_alphaPow, Nat.mod_eq_of_lt (by omega)]
  omega

theorem LegalField.logAt_locationOf_le (h : LegalField P N) (n k : Nat) :
    logAt (builtField P N b) (locationOf (builtField P N b) n k) ≤ n - 1 := by
  rw [locationOf, h.logAt_alphaPow]
  exact (Nat.mod_le _ _).trans (Nat.sub_le _ _)

/-- The positions of a block whose word `received` is not the word `sent`. -/
def errorPositions (n : Nat) (sent received : ℕ → Word) : Finset ℕ :=
  (Finset.range n).filter fun k => received k ≠ sent k

theorem mem_errorPositions {n k : Nat} {sent received : ℕ → Word} :
    k ∈ errorPositions n sent received ↔ k < n ∧ received k ≠ sent k := by
  rw [errorPositions, Finset.mem_filter, Finset.mem_range]

/-- A block of `n` symbols that was a code word for `R` check symbols before at most `R / 2` of its
words were changed (R193). -/
structure FewErrors (f : GF) (n R : Nat) (sent received : ℕ → Word) : Prop where
  size : n ≤ f.size - 1
  sent_isSymbol : ∀ k < n, IsSymbol f (sent k)
  received_isSymbol : ∀ k < n, IsSymbol f (received k)
  codeword : ∀ i < R, syndromeAt f ((List.range n).map sent) i = 0
  few : 2 * (errorPositions n sent received).card ≤ R

section
variable {K : Type} [Field K] {φ : Word → K}

theorem gfAdd_comm (x y : Word) : gfAdd x y = gfAdd y x := BitVec.xor_comm x y

/-- The syndrome of a block as the value of its polynomial at a root of the generator (R180). -/
theorem LegalField.map_syndromeAt (h : LegalField P N) (hφ : IsFieldMap (builtField P N b) φ)
    {n : Nat} (hn : 0 < n) {word : ℕ → Word}
    (hword : ∀ k < n, IsSymbol (builtField P N b) (word k)) (i : Nat) :
    φ (syndromeAt (builtField P N b) ((List.range n).map word) i) =
      ∑ k ∈ Finset.range n, φ (word k) * φ (locationOf (builtField P N b) n k) ^ (i + b) := by
  have hne : (List.range n).map word ≠ [] := List.ne_nil_of_length_pos (by simpa using hn)
  have hsymbols : AreSymbols (builtField P N b) ((List.range n).map word) :=
    List.forall_mem_map.2 fun k hk => hword k (List.mem_range.1 hk)
  rw [syndromeAt, h.map_polyEval hφ (h.isSymbol_alphaPow b _) (isPoly_norm hne hsymbols).2.1,
    hφ.toPolynomial_norm, toPolynomial_map_range, eval_finsetSum]
  refine Finset.sum_congr rfl fun k _ => ?_
  rw [eval_mul, eval_C, eval_pow, eval_X, locationOf, h.map_alphaPow hφ,
    h.map_alphaPow hφ (n - 1 - k), ← pow_mul, ← pow_mul, base_builtField, mul_comm (i + b)]

/-- The syndromes of a changed code word are those of its errors alone. -/
theorem FewErrors.map_syndromeAt {n R : Nat} {sent received : ℕ → Word} [CharP K 2]
    (herr : FewErrors (builtField P N b) n R sent received) (h : LegalField P N)
    (hφ : IsFieldMap (builtField P N b) φ) (hn : 0 < n) {i : Nat} (hi : i < R) :
    φ (syndromeAt (builtField P N b) ((List.range n).map received) i) =
      ∑ k ∈ errorPositions n sent received,
        φ (gfAdd (sent k) (received k)) * φ (locationOf (builtField P N b) n k) ^ b *
          φ (locationOf (builtField P N b) n k) ^ i := by
  have hsent : ∑ k ∈ Finset.range n,
      φ (sent k) * φ (locationOf (builtField P N b) n k) ^ (i + b) = 0 := by
    rw [← h.map_syndromeAt hφ hn herr.sent_isSymbol, herr.codeword i hi, hφ.map_zero]
  rw [h.map_syndromeAt hφ hn herr.received_isSymbol, ← sub_zero (∑ k ∈ _, _), ← hsent,
    ← Finset.sum_sub_distrib, errorPositions, Finset.sum_filter]
  refine Finset.sum_congr rfl fun k hk => ?_
  have hk := Finset.mem_range.1 hk
  split
  · rw [gfAdd_comm, hφ.map_add (herr.received_isSymbol k hk) (herr.sent_isSymbol k hk),
      ← CharTwo.sub_eq_add]
    ring
  · next he => rw [not_not.1 he, sub_self]

/-! ### Within the correction bound -/

/-- The locations and the error values, as R193's argument has them, in the field. -/
def locationValue (f : GF) (φ : Word → K) (n k : Nat) : K := φ (locationOf f n k)

/-- The value of the error at position `k`, times the power of its location that the first root of
the generator brings in (R191). -/
def errorValue (f : GF) (φ : Word → K) (n : Nat) (sent received : ℕ → Word) (k : Nat) : K :=
  φ (gfAdd (sent k) (received k)) * locationValue f φ n k ^ f.base

theorem LegalField.locationValue_ne_zero (h : LegalField P N) (hφ : IsFieldMap (builtField P N b) φ)
    (n k : Nat) : locationValue (builtField P N b) φ n k ≠ 0 :=
  h.map_ne_zero hφ (h.isSymbol_alphaPow b _) (h.alphaPow_ne_zero b _)

section
variable {n R : Nat} {sent received : ℕ → Word}

theorem FewErrors.lt_of_mem {f : GF} (_ : FewErrors f n R sent received) {k : Nat}
    (hk : k ∈ errorPositions n sent received) : k < n := (mem_errorPositions.1 hk).1

theorem FewErrors.isSymbol_error (herr : FewErrors (builtField P N b) n R sent received)
    (h : LegalField P N) {k : Nat} (hk : k < n) :
    IsSymbol (builtField P N b) (gfAdd (sent k) (received k)) :=
  h.isSymbol_gfAdd b (herr.sent_isSymbol k hk) (herr.received_isSymbol k hk)

theorem FewErrors.locationOf_injOn (herr : FewErrors (builtField P N b) n R sent received)
    (h : LegalField P N) :
    Set.InjOn (locationOf (builtField P N b) n) (errorPositions n sent received) :=
  fun _ hj _ hk => h.locationOf_inj herr.size (herr.lt_of_mem hj) (herr.lt_of_mem hk)

theorem FewErrors.locationValue_injOn (herr : FewErrors (builtField P N b) n R sent received)
    (h : LegalField P N) (hφ : IsFieldMap (builtField P N b) φ) :
    Set.InjOn (locationValue (builtField P N b) φ n) (errorPositions n sent received) :=
  fun _ hj _ hk he => herr.locationOf_injOn h hj hk
    (hφ.injOn (h.isSymbol_alphaPow b _) (h.isSymbol_alphaPow b _) he)

theorem FewErrors.errorValue_ne_zero (herr : FewErrors (builtField P N b) n R sent received)
    (h : LegalField P N) (hφ : IsFieldMap (builtField P N b) φ) {k : Nat}
    (hk : k ∈ errorPositions n sent received) :
    errorValue (builtField P N b) φ n sent received k ≠ 0 := by
  obtain ⟨hlt, hne⟩ := mem_errorPositions.1 hk
  refine mul_ne_zero (h.map_ne_zero hφ (herr.isSymbol_error h hlt) fun hzero => hne ?_)
    (pow_ne_zero _ (h.locationValue_ne_zero hφ n k))
  exact (BitVec.xor_eq_zero_iff.1 hzero).symm

variable [CharP K 2]

theorem FewErrors.toPolynomial_synPoly (herr : FewErrors (builtField P N b) n R sent received)
    (h : LegalField P N) (hφ : IsFieldMap (builtField P N b) φ) (hn : 0 < n) :
    toPolynomial φ (synPoly (rsSyndromes (builtField P N b) ((List.range n).map received) R)) =
      syndromeSum (errorPositions n sent received) (locationValue (builtField P N b) φ n)
        (errorValue (builtField P N b) φ n sent received) R := by
  rw [hφ.toPolynomial_synPoly_rsSyndromes, syndromeSum]
  refine Finset.sum_congr rfl fun i hi => ?_
  rw [herr.map_syndromeAt h hφ hn (Finset.mem_range.1 hi)]
  rfl

/-- Step 1 notices that words were changed. -/
theorem FewErrors.not_all_syndromes_zero (herr : FewErrors (builtField P N b) n R sent received)
    (h : LegalField P N) (hφ : IsFieldMap (builtField P N b) φ) (hn : 0 < n)
    (hE : (errorPositions n sent received).Nonempty) :
    ¬(rsSyndromes (builtField P N b) ((List.range n).map received) R).all (· == 0) = true := by
  intro hall
  have hfew := herr.few
  refine syndromeSum_ne_zero (R := R) hE (fun k _ => h.locationValue_ne_zero hφ n k)
    (herr.locationValue_injOn h hφ) (fun k hk => herr.errorValue_ne_zero h hφ hk) (by omega) ?_
  rw [← herr.toPolynomial_synPoly h hφ hn, hφ.toPolynomial_synPoly_rsSyndromes]
  refine Finset.sum_eq_zero fun i hi => ?_
  rw [(all_rsSyndromes_eq_true _ _ _).1 hall i (Finset.mem_range.1 hi), hφ.map_zero, C_0, zero_mul]

omit [CharP K 2] in
/-- Scaling by the inverse of the constant term, as R182 ends. -/
theorem LegalField.toPolynomial_scaled (h : LegalField P N) (hφ : IsFieldMap (builtField P N b) φ)
    {p : Poly} {x : Word} (hp : IsPoly (builtField P N b) p) (hx : IsSymbol (builtField P N b) x)
    (hne : x ≠ 0) {q : K[X]} (hq : toPolynomial φ p = C (φ x) * q) :
    IsPoly (builtField P N b)
      (polyMul (builtField P N b) p [gfInv (builtField P N b) x]) ∧
    toPolynomial φ (polyMul (builtField P N b) p [gfInv (builtField P N b) x]) = q := by
  have hinv : IsPoly (builtField P N b) [gfInv (builtField P N b) x] :=
    isPoly_cons (h.gfInv_ne_zero hx hne) (h.isSymbol_gfInv b hx) (List.forall_mem_nil _)
  refine ⟨h.isPoly_polyMul b hp hinv, ?_⟩
  have hcancel := congrArg C (mul_inv_cancel₀ (h.map_ne_zero hφ hx hne))
  rw [C_mul, C_1] at hcancel
  rw [h.toPolynomial_polyMul hφ hp hinv, hq, toPolynomial, toPolynomial, h.map_gfInv hφ hx hne,
    List.length_nil]
  linear_combination q * hcancel

/-- Step 2 finds the locator and the evaluator of the errors. -/
theorem FewErrors.exists_rsEuclid (herr : FewErrors (builtField P N b) n R sent received)
    (h : LegalField P N) (hφ : IsFieldMap (builtField P N b) φ) (hn : 0 < n) (hR : 0 < R)
    (hR' : R ≤ 4095) :
    ∃ sigma omega, rsEuclid (builtField P N b)
        (synPoly (rsSyndromes (builtField P N b) ((List.range n).map received) R)) R =
        .ok (sigma, omega) ∧
      IsPoly (builtField P N b) sigma ∧ IsPoly (builtField P N b) omega ∧
      toPolynomial φ sigma = errorLocator (errorPositions n sent received)
        (locationValue (builtField P N b) φ n) ∧
      toPolynomial φ omega = errorEvaluator (errorPositions n sent received)
        (locationValue (builtField P N b) φ n)
        (errorValue (builtField P N b) φ n sent received) := by
  have hne : (List.range n).map received ≠ [] := List.ne_nil_of_length_pos (by simpa using hn)
  have hsymbols : AreSymbols (builtField P N b) ((List.range n).map received) :=
    List.forall_mem_map.2 fun k hk => herr.received_isSymbol k (List.mem_range.1 hk)
  have hlen : (rsSyndromes (builtField P N b) ((List.range n).map received) R).length = R := by
    simp [rsSyndromes]
  have hdeg := hφ.natDegree_synPoly_lt (hR.trans_eq hlen.symm)
  rw [hlen] at hdeg
  obtain ⟨rLast, r, tLast, t, ⟨-, hr, -, ht, hstage⟩, hstop, heuclid⟩ :=
    h.exists_rsEuclid hφ (h.isPoly_synPoly (h.areSymbols_rsSyndromes hne hsymbols R)) hdeg hR'
  rw [herr.toPolynomial_synPoly h hφ hn] at hstage
  obtain ⟨c, hc, htc, hrc⟩ := hstage.eq_C_mul (by rwa [h.natDegree_toPolynomial hφ hr])
    (fun k _ => h.locationValue_ne_zero hφ n k) (herr.locationValue_injOn h hφ)
    (fun k hk => herr.errorValue_ne_zero h hφ hk) herr.few (X_pow_dvd_keyEquation _ _ _ R)
  have hcoef : φ (coef t 0) = c := by
    rw [hφ.map_coef_zero, htc, eval_mul, eval_C, eval_zero_errorLocator, mul_one]
  have hcoefne : coef t 0 ≠ 0 := fun hzero => hc (by rw [← hcoef, hzero, hφ.map_zero])
  have hcoefs : IsSymbol (builtField P N b) (coef t 0) := h.isSymbol_coef ht.2.1 0
  rw [← hcoef] at htc hrc
  obtain ⟨hsigma, hsigma'⟩ := h.toPolynomial_scaled hφ ht hcoefs hcoefne htc
  obtain ⟨homega, homega'⟩ := h.toPolynomial_scaled hφ hr hcoefs hcoefne hrc
  rw [if_neg hcoefne] at heuclid
  exact ⟨_, _, heuclid, hsigma, homega, hsigma', homega'⟩

omit [CharP K 2] in
/-- A location of step 3 is the location of a changed word. -/
theorem LegalField.mem_chienSearch_of_errorLocator (h : LegalField P N)
    (hφ : IsFieldMap (builtField P N b) φ) {sigma : Poly} (hpoly : IsPoly (builtField P N b) sigma)
    (hsigma : toPolynomial φ sigma = errorLocator (errorPositions n sent received)
      (locationValue (builtField P N b) φ n)) {x : Word} :
    x ∈ chienSearch (builtField P N b) sigma ↔
      ∃ k ∈ errorPositions n sent received, locationOf (builtField P N b) n k = x := by
  have hroot : ∀ {x}, IsSymbol (builtField P N b) x → x ≠ 0 →
      (polyEval (builtField P N b) sigma (gfInv (builtField P N b) x) = 0 ↔
        ∃ k ∈ errorPositions n sent received, locationValue (builtField P N b) φ n k = φ x) := by
    intro x hx hne
    have hinv := h.isSymbol_gfInv b hx
    rw [← hφ.map_eq_zero_iff (h.isSymbol_zero b) (h.isSymbol_polyEval hinv hpoly.2.1),
      h.map_polyEval hφ hinv hpoly.2.1, hsigma, h.map_gfInv hφ hx hne,
      eval_inv_errorLocator_eq_zero_iff (h.map_ne_zero hφ hx hne)]
  rw [h.mem_chienSearch]
  constructor
  · rintro ⟨hx, hne, hzero⟩
    obtain ⟨k, hk, he⟩ := (hroot hx hne).1 hzero
    exact ⟨k, hk, hφ.injOn (h.isSymbol_alphaPow b _) hx he⟩
  · rintro ⟨k, hk, rfl⟩
    have hx := h.isSymbol_alphaPow b (n - 1 - k)
    have hne := h.alphaPow_ne_zero b (n - 1 - k)
    exact ⟨hx, hne, (hroot hx hne).2 ⟨k, hk, rfl⟩⟩

/-- Locations that are those of the changed words. -/
structure LocatesErrors (f : GF) (n : Nat) (sent received : ℕ → Word) (locs : List Word) :
    Prop where
  areLocations : AreLocations f locs
  mem_iff : ∀ x, x ∈ locs ↔ ∃ k ∈ errorPositions n sent received, locationOf f n k = x

theorem FewErrors.length_locations (herr : FewErrors (builtField P N b) n R sent received)
    (h : LegalField P N) {locs : List Word}
    (hlocs : LocatesErrors (builtField P N b) n sent received locs) :
    locs.length = (errorPositions n sent received).card := by
  rw [← Finset.card_image_of_injOn (herr.locationOf_injOn h),
    ← List.toFinset_card_of_nodup hlocs.areLocations.nodup]
  refine congrArg Finset.card (Finset.ext fun x => ?_)
  rw [List.mem_toFinset, Finset.mem_image, hlocs.mem_iff]

/-- The denominator of R184 is the value of the locator without the factor of its location. -/
theorem FewErrors.map_denominator (herr : FewErrors (builtField P N b) n R sent received)
    (h : LegalField P N) (hφ : IsFieldMap (builtField P N b) φ) {locs : List Word}
    (hlocs : LocatesErrors (builtField P N b) n sent received locs) {k : Nat}
    (hk : k ∈ errorPositions n sent received) {loc : Word}
    (hloc : loc = locationOf (builtField P N b) n k) :
    φ (multiplyFactors (builtField P N b) (gfInv (builtField P N b) loc) (locs.erase loc) 1) =
      (errorLocator ((errorPositions n sent received).erase k)
        (locationValue (builtField P N b) φ n)).eval (φ loc)⁻¹ := by
  have hmem : loc ∈ locs := (hlocs.mem_iff loc).2 ⟨k, hk, hloc.symm⟩
  have hnodup := hlocs.areLocations.nodup
  have hothers : (locs.erase loc).toFinset =
      ((errorPositions n sent received).erase k).image (locationOf (builtField P N b) n) := by
    ext x
    rw [List.mem_toFinset, hnodup.mem_erase_iff, Finset.mem_image, hlocs.mem_iff]
    constructor
    · rintro ⟨hne, j, hj, rfl⟩
      exact ⟨j, Finset.mem_erase.2 ⟨fun he => hne (by rw [hloc, he]), hj⟩, rfl⟩
    · rintro ⟨j, hj, rfl⟩
      obtain ⟨hne, hj⟩ := Finset.mem_erase.1 hj
      exact ⟨fun he => hne (herr.locationOf_injOn h hj hk (he.trans hloc)), j, hj, rfl⟩
  have hinj := (herr.locationOf_injOn h).mono
    (Finset.coe_subset.2 (Finset.erase_subset k (errorPositions n sent received)))
  rw [h.map_denominator hφ hlocs.areLocations hmem, ← List.prod_toFinset _ (hnodup.erase loc),
    hothers, Finset.prod_image hinj, errorLocator, eval_prod]
  refine Finset.prod_congr rfl fun j _ => ?_
  rw [eval_sub, eval_one, eval_mul, eval_C, eval_X, CharTwo.sub_eq_add]
  rfl

/-- Evaluator over denominator, at the inverse of a location: the error times the power of the
location that the first root of the generator brings in (R191). -/
theorem FewErrors.map_quotient (herr : FewErrors (builtField P N b) n R sent received)
    (h : LegalField P N) (hφ : IsFieldMap (builtField P N b) φ) {omega : Poly}
    (hpoly : IsPoly (builtField P N b) omega)
    (homega : toPolynomial φ omega = errorEvaluator (errorPositions n sent received)
      (locationValue (builtField P N b) φ n) (errorValue (builtField P N b) φ n sent received))
    {locs : List Word} (hlocs : LocatesErrors (builtField P N b) n sent received locs) {k : Nat}
    (hk : k ∈ errorPositions n sent received) {loc den : Word}
    (hloc : loc = locationOf (builtField P N b) n k)
    (hden : den =
      multiplyFactors (builtField P N b) (gfInv (builtField P N b) loc) (locs.erase loc) 1) :
    IsSymbol (builtField P N b) (gfMul (builtField P N b)
      (polyEval (builtField P N b) omega (gfInv (builtField P N b) loc))
      (gfInv (builtField P N b) den)) ∧
    φ (gfMul (builtField P N b)
      (polyEval (builtField P N b) omega (gfInv (builtField P N b) loc))
      (gfInv (builtField P N b) den)) = φ (gfAdd (sent k) (received k)) * φ loc ^ b := by
  have hmem : loc ∈ locs := (hlocs.mem_iff loc).2 ⟨k, hk, hloc.symm⟩
  have hs := hlocs.areLocations.isSymbol loc hmem
  have hinv := h.isSymbol_gfInv b hs
  have hvalue := h.isSymbol_polyEval hinv hpoly.2.1
  have hdens : IsSymbol (builtField P N b) den := hden ▸ (h.map_multiplyFactors hφ
    (hlocs.areLocations.areSymbols_erase loc) hinv (h.isSymbol_one b)).1
  have hdenne : den ≠ 0 := hden ▸ h.denominator_ne_zero hlocs.areLocations hmem
  have hlocation : φ loc = locationValue (builtField P N b) φ n k := congrArg φ hloc
  have heval := eval_errorEvaluator (val := errorValue (builtField P N b) φ n sent received)
    (fun k _ => h.locationValue_ne_zero hφ n k) hk
  refine ⟨h.isSymbol_gfMul b hvalue (h.isSymbol_gfInv b hdens), ?_⟩
  rw [hφ.map_mul hvalue (h.isSymbol_gfInv b hdens), h.map_polyEval hφ hinv hpoly.2.1, homega,
    h.map_gfInv hφ hs (hlocs.areLocations.ne_zero loc hmem), h.map_gfInv hφ hdens hdenne, hlocation,
    heval, ← hlocation, ← herr.map_denominator h hφ hlocs hk hloc, ← hden, mul_assoc,
    mul_inv_cancel₀ (h.map_ne_zero hφ hdens hdenne), mul_one, errorValue, ← hlocation,
    base_builtField]

/-- With `base` 0 or 1 the magnitude of R184 is the error itself (R191). -/
theorem FewErrors.magnitudeOf_eq (herr : FewErrors (builtField P N b) n R sent received)
    (h : LegalField P N) (hφ : IsFieldMap (builtField P N b) φ) (hb : b ≤ 1) {omega : Poly}
    (hpoly : IsPoly (builtField P N b) omega)
    (homega : toPolynomial φ omega = errorEvaluator (errorPositions n sent received)
      (locationValue (builtField P N b) φ n) (errorValue (builtField P N b) φ n sent received))
    {locs : List Word} (hlocs : LocatesErrors (builtField P N b) n sent received locs) {k : Nat}
    (hk : k ∈ errorPositions n sent received) :
    magnitudeOf (builtField P N b) omega locs (locationOf (builtField P N b) n k) =
      gfAdd (sent k) (received k) := by
  have hmem := (hlocs.mem_iff _).2 ⟨k, hk, rfl⟩
  have hs := hlocs.areLocations.isSymbol _ hmem
  have hne := hlocs.areLocations.ne_zero _ hmem
  obtain ⟨hquotients, hquotient⟩ := herr.map_quotient h hφ hpoly homega hlocs hk rfl rfl
  refine hφ.injOn (h.isSymbol_magnitudeOf hpoly hlocs.areLocations hmem)
    (herr.isSymbol_error h (herr.lt_of_mem hk)) ?_
  unfold magnitudeOf forneyMagnitude
  rw [base_builtField]
  obtain rfl | rfl : b = 0 ∨ b = 1 := by omega
  · rw [if_pos rfl, hquotient, pow_zero, mul_one]
  · rw [if_neg one_ne_zero, hφ.map_mul hquotients (h.isSymbol_gfInv _ hs), hquotient, pow_one,
      h.map_gfInv hφ hs hne, mul_assoc, mul_inv_cancel₀ (h.map_ne_zero hφ hs hne), mul_one]

end

end

/-- Steps 2 to 4 find every changed word and what it was changed by (R193). -/
theorem FewErrors.exists_rsLocate {n R : Nat} {sent received : ℕ → Word}
    (herr : FewErrors (builtField P N b) n R sent received) (h : LegalField P N) (hb : b ≤ 1)
    (hn : 0 < n) (hR : 0 < R) (hR' : R ≤ 4095) :
    ∃ locs magnitude, rsLocate (builtField P N b)
        (rsSyndromes (builtField P N b) ((List.range n).map received) R) R =
        .ok (locs, locs.map magnitude) ∧
      LocatesErrors (builtField P N b) n sent received locs ∧
      ∀ k ∈ errorPositions n sent received,
        magnitude (locationOf (builtField P N b) n k) = gfAdd (sent k) (received k) := by
  obtain ⟨K, _, _, φ, hφ⟩ := h.exists_isFieldMap_field b
  obtain ⟨sigma, omega, heuclid, hsigma, homega, hlocator, hevaluator⟩ :=
    herr.exists_rsEuclid h hφ hn hR hR'
  have hlocs : LocatesErrors (builtField P N b) n sent received
      (chienSearch (builtField P N b) sigma) :=
    ⟨h.areLocations_chienSearch sigma,
      fun _ => h.mem_chienSearch_of_errorLocator hφ hsigma hlocator⟩
  have hlen : (chienSearch (builtField P N b) sigma).length = deg sigma := by
    rw [herr.length_locations h hlocs, ← h.natDegree_toPolynomial hφ hsigma, hlocator,
      natDegree_errorLocator fun k _ => h.locationValue_ne_zero hφ n k]
  refine ⟨_, _, ?_, hlocs, fun k hk =>
    herr.magnitudeOf_eq h hφ hb homega hevaluator hlocs hk⟩
  rw [rsLocate, heuclid, ok_bind]
  dsimp only
  rw [rsChien, if_neg (not_not.2 hlen), ok_bind, h.rsForney_eq_ok omega hlocs.areLocations]
  rfl

end
end Sys2Proof.Machine
end

section
/-! PROOFS. The corrections in DMEM (44_rs_decoder.md R185) and the ends of `RSDEC` (R192, R193,
R195). -/

namespace Sys2Proof.Machine

/-! ### Corrections (R185) -/

theorem correctedWord_cons (f : GF) (a0 n : Nat) (c : Word × Word) (l : List (Word × Word))
    (addr : Nat) (old : Word) :
    correctedWord f a0 n (c :: l) addr old =
      correctedWord f a0 n l addr
        (if correctionAddress f a0 n c.1 = addr then old ^^^ c.2 else old) := by
  unfold correctedWord
  by_cases haddr : correctionAddress f a0 n c.1 = addr
  · rw [List.filter_cons_of_pos (by simpa using haddr), if_pos haddr, List.foldl_cons]
  · rw [List.filter_cons_of_neg (by simpa using haddr), if_neg haddr]

/-- Corrections that all fall inside the block are made one after the other, without a trap. -/
theorem readDmem_rsApply (a0 n : Nat) {locs mags : List Word} {s : State} {i : Nat}
    (hdone : (s.rsApply a0 n i locs mags).2 = none) (addr : Nat) :
    (s.rsApply a0 n i locs mags).1.readDmem addr =
      correctedWord s.gf a0 n (locs.zip mags) addr (s.readDmem addr) := by
  induction locs generalizing mags s i with
  | nil => rfl
  | cons loc locs ih =>
    cases mags with
    | nil => rfl
    | cons mag mags =>
      rw [State.rsApply] at hdone ⊢
      split at hdone
      · cases hdone
      · next hinside =>
        rw [if_neg hinside]
        refine (ih hdone).trans ?_
        rw [List.zip_cons_cons, correctedWord_cons, State.writeDmem_gf]
        congr 1
        split
        · next haddr =>
          subst haddr
          exact State.readDmem_writeDmem_same _ _ _
        · next haddr => exact State.readDmem_writeDmem_ne _ _ _ _ (Ne.symm haddr)

theorem rsApply_of_inside (a0 n : Nat) {locs mags : List Word} {s : State} {i : Nat}
    (hinside : ∀ x ∈ locs, logAt s.gf x ≤ n - 1) : (s.rsApply a0 n i locs mags).2 = none := by
  induction locs generalizing mags s i with
  | nil => rfl
  | cons loc locs ih =>
    obtain ⟨hloc, hlocs⟩ := List.forall_mem_cons.1 hinside
    cases mags with
    | nil => rfl
    | cons mag mags =>
      rw [State.rsApply, if_neg (Nat.not_lt.2 hloc)]
      exact ih hlocs

/-- A word that no correction names keeps its value. -/
theorem correctedWord_of_forall_ne {f : GF} {a0 n addr : Nat} {l : List (Word × Word)}
    (hl : ∀ c ∈ l, correctionAddress f a0 n c.1 ≠ addr) (old : Word) :
    correctedWord f a0 n l addr old = old := by
  rw [correctedWord, List.filter_eq_nil_iff.2 fun c hc => by simpa using hl c hc, List.foldl_nil]

/-- A word that one location names is changed by that location's magnitude. -/
theorem correctedWord_of_unique {f : GF} {a0 n : Nat} {locs : List Word} (magnitude : Word → Word)
    {x : Word} (hx : x ∈ locs) (hnodup : locs.Nodup)
    (hunique : ∀ y ∈ locs, correctionAddress f a0 n y = correctionAddress f a0 n x → y = x)
    (old : Word) :
    correctedWord f a0 n (locs.zip (locs.map magnitude)) (correctionAddress f a0 n x) old =
      old ^^^ magnitude x := by
  induction locs generalizing old with
  | nil => cases hx
  | cons y locs ih =>
    obtain ⟨hnot, hnodup⟩ := List.nodup_cons.1 hnodup
    obtain ⟨hy, hunique⟩ := List.forall_mem_cons.1 hunique
    rw [List.map_cons, List.zip_cons_cons, correctedWord_cons]
    by_cases hyx : y = x
    · subst hyx
      rw [if_pos rfl]
      refine correctedWord_of_forall_ne (fun c hc he => ?_) _
      have hmem : c.1 ∈ locs := (List.of_mem_zip hc).1
      exact hnot (hunique c.1 hmem he ▸ hmem)
    · rw [if_neg (mt hy hyx)]
      exact ih (List.mem_of_ne_of_mem (Ne.symm hyx) hx) hnodup hunique old

/-! ### The ends of `RSDEC` (R192) -/

theorem rsdecPlan_eq {s : State} {a0 n R : Nat} (hblock : requireBlock s a0 n R = .ok ()) :
    rsdecPlan s a0 n R =
      if (rsSyndromes s.gf (s.readRun a0 n) R).all (· == 0) = true then .ok ([], [])
      else rsLocate s.gf (rsSyndromes s.gf (s.readRun a0 n) R) R := by
  rw [rsdecPlan, hblock]
  rfl

theorem exec_rsdec_of_plan_error {s : State} {d a b c : XReg} {e : Trap}
    (hplan : rsdecPlan s (s.readX a).toNat (s.readX b).toNat (s.readX c).toNat = .error e) :
    exec (.rsdec d a b c) s = .next (s.trap e) := by
  rw [exec, execRsdec, hplan]

/-- Every correction made: the words are corrected, the count written, and nothing else changes. -/
theorem exec_rsdec_corrected {s : State} (d : XReg) {a b c : XReg} {a0 n : Nat}
    {locs mags : List Word} (ha : a0 = (s.readX a).toNat) (hb : n = (s.readX b).toNat)
    (hplan : rsdecPlan s a0 n (s.readX c).toNat = .ok (locs, mags))
    (hdone : (s.rsApply a0 n 0 locs mags).2 = none) :
    ∃ t, exec (.rsdec d a b c) s = .next t ∧
      t = { s with
        dmem := t.dmem, x := s.x.set d.val (BitVec.ofNat 16 locs.length), pc := s.pc + 1 } ∧
      ∀ addr, t.readDmem addr =
        correctedWord s.gf a0 n (locs.zip mags) addr (s.readDmem addr) := by
  subst ha hb
  refine ⟨((s.rsApply (s.readX a).toNat (s.readX b).toNat 0 locs mags).1.writeX d
    (BitVec.ofNat 16 locs.length)).advance, ?_, ?_, fun addr => readDmem_rsApply _ _ hdone addr⟩
  · rw [exec, execRsdec, hplan]
    simp only [withCount, hdone, completeFrom]
  · have hsame := sameButDmem_rsApply (s.readX a).toNat (s.readX b).toNat locs mags s 0
    rw [SameButDmem] at hsame
    generalize (s.rsApply (s.readX a).toNat (s.readX b).toNat 0 locs mags).1 = u at hsame ⊢
    rw [hsame]
    rfl

/-- A bad location: cause 17, the count not written. -/
theorem exec_rsdec_badLocation {s : State} (d : XReg) {a b c : XReg} {a0 n : Nat}
    {locs mags : List Word} {e : Trap} (ha : a0 = (s.readX a).toNat) (hb : n = (s.readX b).toNat)
    (hplan : rsdecPlan s a0 n (s.readX c).toNat = .ok (locs, mags))
    (hbad : (s.rsApply a0 n 0 locs mags).2 = some e) :
    ∃ t, exec (.rsdec d a b c) s = .next t ∧ t.runState = .faulted ∧ t.x = s.x ∧ t.cause = 17 := by
  subst ha hb
  refine ⟨(s.rsApply (s.readX a).toNat (s.readX b).toNat 0 locs mags).1.trap e, ?_, rfl, ?_, ?_⟩
  · rw [exec, execRsdec, hplan]
    simp only [withCount, hbad, completeFrom]
  · have hsame := sameButDmem_rsApply (s.readX a).toNat (s.readX b).toNat locs mags s 0
    rw [SameButDmem] at hsame
    rw [State.trap_x, hsame]
  · rw [State.trap_cause, rsApply_trap _ _ _ _ _ _ _ hbad]
    rfl

/-! ### Any block (R195) -/

/-- What `RSDEC` decides on a block that passes its checks. -/
theorem LegalField.rsdecPlan_cases {P N b : Nat} (h : LegalField P N) {s : State} {a0 n R : Nat}
    (hgf : s.gf = builtField P N b) (hblock : requireBlock s a0 n R = .ok ()) :
    (∃ e, rsdecPlan s a0 n R = .error e ∧
      (e.cause = .rsSigmaZero ∨ e.cause = .rsLocatorMismatch)) ∨
    ∃ locs mags, rsdecPlan s a0 n R = .ok (locs, mags) ∧ locs.Nodup ∧ locs.length ≤ N - 1 ∧
      mags.length = locs.length := by
  obtain ⟨-, hn, -, hsymbols, hR⟩ := (requireBlock_eq_ok s a0 n R).1 hblock
  rw [rsdecPlan_eq hblock]
  split
  · exact .inr ⟨[], [], rfl, List.nodup_nil, Nat.zero_le _, rfl⟩
  next hnonzero =>
  have hpos : 0 < R := by
    refine Nat.pos_of_ne_zero fun hzero => hnonzero ?_
    rw [all_rsSyndromes_eq_true, hzero]
    exact fun i hi => absurd hi (Nat.not_lt_zero i)
  have hne : s.readRun a0 n ≠ [] :=
    List.ne_nil_of_length_pos (by rw [readRun_length]; exact Nat.pos_of_ne_zero hn)
  have hsymbols : AreSymbols s.gf (s.readRun a0 n) := hsymbols
  rw [hgf] at hsymbols ⊢
  obtain herror | ⟨locs, mags, hlocate, hlocs, hlen, hmags⟩ :=
    h.rsLocate_cases (h.areSymbols_rsSyndromes hne hsymbols R) (by simp [rsSyndromes]) hpos
      (by omega)
  · exact .inl herror
  · exact .inr ⟨locs, mags, hlocate, hlocs.nodup, hlen, hmags⟩

/-- `RSDEC` trapped with cause 15, 16 or 17 and left `x[d]` as it was. -/
def EndsInDecodeError (s t : State) (d : XReg) : Prop :=
  t.runState = .faulted ∧ t.readX d = s.readX d ∧ (t.cause = 15 ∨ t.cause = 16 ∨ t.cause = 17)

/-- A list of corrections with different locations was made and counted in `x[d]`. -/
def EndsCorrected (s t : State) (d : XReg) (a0 n : Nat) : Prop :=
  ∃ corrections : List (Word × Word),
    t = { s with
      dmem := t.dmem, pc := s.pc + 1
      x := s.x.set d.val (BitVec.ofNat 16 corrections.length) } ∧
    corrections.length ≤ s.gfSize.toNat - 1 ∧ (corrections.map Prod.fst).Nodup ∧
    ∀ addr, t.readDmem addr = correctedWord s.gf a0 n corrections addr (s.readDmem addr)

theorem rsdec_endsCorrected_or_decodeError {s : State} (d : XReg) {a b c : XReg} {a0 n : Nat}
    (hfield : s.FieldBuilt) (valid : s.gfValid = true) (ha : a0 = (s.readX a).toNat)
    (hb : n = (s.readX b).toNat) (hblock : requireBlock s a0 n (s.readX c).toNat = .ok ()) :
    ∃ t, exec (.rsdec d a b c) s = .next t ∧
      (EndsCorrected s t d a0 n ∨ EndsInDecodeError s t d) := by
  obtain ⟨hlegal, hgf⟩ := hfield valid
  obtain ⟨e, hplan, hcause⟩ | ⟨locs, mags, hplan, hnodup, hlen, hmags⟩ :=
    hlegal.rsdecPlan_cases hgf hblock
  · subst ha hb
    refine ⟨_, exec_rsdec_of_plan_error hplan, .inr ⟨rfl, rfl, ?_⟩⟩
    rw [State.trap_cause]
    obtain hcause | hcause := hcause <;> rw [hcause]
    · exact .inl rfl
    · exact .inr (.inl rfl)
  cases hdone : (s.rsApply a0 n 0 locs mags).2 with
  | none =>
    obtain ⟨t, hexec, ht, hmem⟩ := exec_rsdec_corrected d ha hb hplan hdone
    have hzip : (locs.zip mags).length = locs.length := by rw [List.length_zip, hmags, Nat.min_self]
    refine ⟨t, hexec, .inl ⟨locs.zip mags, ?_, hzip.trans_le hlen, ?_, hmem⟩⟩
    · rw [hzip]
      exact ht
    · rwa [List.map_fst_zip hmags.ge]
  | some e =>
    obtain ⟨t, hexec, hrun, hx, hcause⟩ := exec_rsdec_badLocation d ha hb hplan hdone
    exact ⟨t, hexec, .inr ⟨hrun, by rw [State.readX, hx, State.readX], .inr (.inr hcause)⟩⟩

/-! ### Within the correction bound (R193) -/

/-- Word `k` of the block at `a0`. -/
def State.blockWord (s : State) (a0 k : Nat) : Word := s.readDmem (a0 + k)

theorem FewErrors.exists_rsdecPlan {P N b n R a0 : Nat} {s : State} {sent : Nat → Word}
    (herr : FewErrors (builtField P N b) n R sent (s.blockWord a0)) (h : LegalField P N)
    (hgf : s.gf = builtField P N b) (hb : b ≤ 1) (hblock : requireBlock s a0 n R = .ok ()) :
    ∃ locs magnitude, rsdecPlan s a0 n R = .ok (locs, locs.map magnitude) ∧
      LocatesErrors (builtField P N b) n sent (s.blockWord a0) locs ∧
      ∀ k ∈ errorPositions n sent (s.blockWord a0),
        magnitude (locationOf (builtField P N b) n k) = gfAdd (sent k) (s.blockWord a0 k) := by
  obtain ⟨-, hn, -, -, hR⟩ := (requireBlock_eq_ok s a0 n R).1 hblock
  have hrun : s.readRun a0 n = (List.range n).map (s.blockWord a0) := rfl
  rw [rsdecPlan_eq hblock, hgf, hrun]
  obtain hempty | hsome := (errorPositions n sent (s.blockWord a0)).eq_empty_or_nonempty
  · have hsame : (List.range n).map (s.blockWord a0) = (List.range n).map sent := by
      refine List.map_congr_left fun k hk => by_contra fun hne => ?_
      have hmem := mem_errorPositions.2 ⟨List.mem_range.1 hk, hne⟩
      rw [hempty] at hmem
      exact absurd hmem (Finset.notMem_empty k)
    rw [hsame, if_pos ((all_rsSyndromes_eq_true _ _ _).2 herr.codeword)]
    refine ⟨[], id, rfl, ⟨⟨List.forall_mem_nil _, List.forall_mem_nil _, List.nodup_nil⟩, ?_⟩, ?_⟩
    · simp [hempty]
    · simp [hempty]
  · obtain ⟨K, _, _, φ, hφ⟩ := h.exists_isFieldMap_field b
    have hn := Nat.pos_of_ne_zero hn
    have hfew := herr.few
    have hcard := hsome.card_pos
    rw [if_neg (herr.not_all_syndromes_zero h hφ hn hsome)]
    exact herr.exists_rsLocate h hb hn (by omega) (by omega)

/-- The corrections restore every word of the block and touch no other. -/
theorem FewErrors.correctedWord_eq {P N b n R a0 : Nat} {sent received : Nat → Word}
    (herr : FewErrors (builtField P N b) n R sent received) (h : LegalField P N) {locs : List Word}
    {magnitude : Word → Word} (hlocs : LocatesErrors (builtField P N b) n sent received locs)
    (hmagnitude : ∀ k ∈ errorPositions n sent received,
      magnitude (locationOf (builtField P N b) n k) = gfAdd (sent k) (received k)) {k : Nat}
    (hk : k < n) :
    correctedWord (builtField P N b) a0 n (locs.zip (locs.map magnitude)) (a0 + k) (received k) =
      sent k := by
  have haddress : ∀ y ∈ locs, correctionAddress (builtField P N b) a0 n y = a0 + k →
      y = locationOf (builtField P N b) n k ∧ k ∈ errorPositions n sent received := by
    intro y hy he
    obtain ⟨j, hj, rfl⟩ := (hlocs.mem_iff y).1 hy
    rw [h.correctionAddress_locationOf a0 herr.size (herr.lt_of_mem hj)] at he
    obtain rfl : j = k := by omega
    exact ⟨rfl, hj⟩
  by_cases hmem : k ∈ errorPositions n sent received
  · have hloc := (hlocs.mem_iff _).2 ⟨k, hmem, rfl⟩
    have hplace := h.correctionAddress_locationOf (b := b) a0 herr.size hk
    have hcorrected := correctedWord_of_unique (f := builtField P N b) (a0 := a0) (n := n) magnitude
      hloc hlocs.areLocations.nodup (fun y hy he => (haddress y hy (he.trans hplace)).1)
      (received k)
    rw [hplace, hmagnitude k hmem, gfAdd, BitVec.xor_comm (sent k), ← BitVec.xor_assoc,
      BitVec.xor_self, BitVec.zero_xor] at hcorrected
    exact hcorrected
  · rw [correctedWord_of_forall_ne fun c hc he => hmem (haddress c.1 (List.of_mem_zip hc).1 he).2]
    exact by_contra fun hne => hmem (mem_errorPositions.2 ⟨hk, hne⟩)

theorem FewErrors.rsdec_restores {P N b0 n R a0 : Nat} {s : State} {sent : Nat → Word} (d : XReg)
    {a b c : XReg} (herr : FewErrors (builtField P N b0) n R sent (s.blockWord a0))
    (h : LegalField P N) (hgf : s.gf = builtField P N b0) (hbase : b0 ≤ 1)
    (ha : a0 = (s.readX a).toNat) (hb : n = (s.readX b).toNat) (hc : R = (s.readX c).toNat)
    (hblock : requireBlock s a0 n R = .ok ()) :
    ∃ w, exec (.rsdec d a b c) s = .next w ∧
      w = { s with
        dmem := w.dmem, pc := s.pc + 1
        x := s.x.set d.val (BitVec.ofNat 16 (errorPositions n sent (s.blockWord a0)).card) } ∧
      (∀ k, k < n → w.readDmem (a0 + k) = sent k) ∧
      ∀ addr, addr < a0 ∨ a0 + n ≤ addr → w.readDmem addr = s.readDmem addr := by
  obtain ⟨locs, magnitude, hplan, hlocs, hmagnitude⟩ := herr.exists_rsdecPlan h hgf hbase hblock
  have hinside : ∀ x ∈ locs, logAt s.gf x ≤ n - 1 := by
    intro x hx
    obtain ⟨k, -, rfl⟩ := (hlocs.mem_iff x).1 hx
    exact hgf ▸ h.logAt_locationOf_le n k
  subst hc
  obtain ⟨w, hexec, hw, hmem⟩ := exec_rsdec_corrected d ha hb hplan (rsApply_of_inside a0 n hinside)
  rw [hgf] at hmem
  refine ⟨w, hexec, ?_, fun k hk => ?_, fun addr haddr => ?_⟩
  · rw [← herr.length_locations h hlocs]
    exact hw
  · exact (hmem (a0 + k)).trans (herr.correctedWord_eq h hlocs hmagnitude hk)
  · rw [hmem, correctedWord_of_forall_ne fun c hc he => ?_]
    obtain ⟨k, hk, hloc⟩ := (hlocs.mem_iff c.1).1 (List.of_mem_zip hc).1
    have hlt := herr.lt_of_mem hk
    rw [← hloc, h.correctionAddress_locationOf a0 herr.size hlt] at he
    omega

/-- `u` is what a completed `RSENC` left, with `changed` words of the block changed. -/
theorem fewErrors_of_rsenc {s t u : State} {a b c : XReg} {a0 n ec : Nat} (hfield : s.FieldBuilt)
    (hcache : s.CacheBuilt) (ha : a0 = (s.readX a).toNat) (hb : n = (s.readX b).toNat + ec)
    (hc : ec = (s.readX c).toNat) (hsize : n ≤ s.gfSize.toNat - 1)
    (hexec : exec (.rsenc a b c) s = .next t) (hrun : t.runState = .run)
    (hreceived : ∀ k, k < n → IsSymbol s.gf (u.blockWord a0 k))
    (hfew : (errorPositions n (t.blockWord a0) (u.blockWord a0)).card ≤ ec / 2) :
    FewErrors s.gf n ec (t.blockWord a0) (u.blockWord a0) := by
  obtain ⟨valid, -, -, -, -, -, hsymbols, q, hq, hmultiple⟩ :=
    rsenc_leaves_codeword hfield hcache ha rfl hc hexec hrun
  obtain ⟨hlegal, hbuilt⟩ := hfield valid
  rw [← hb] at hsymbols hmultiple
  refine ⟨hsize, fun k hk => hsymbols _ ((mem_readRun ..).2 ⟨k, hk, rfl⟩), hreceived, ?_, by omega⟩
  rw [hbuilt] at hq hmultiple ⊢
  exact fun i hi => hlegal.syndromeAt_eq_zero hq hmultiple hi

theorem length_filter_range_ne (n : Nat) (sent received : Nat → Word) :
    ((List.range n).filter fun k => received k != sent k).length =
      (errorPositions n sent received).card := by
  rw [← List.toFinset_card_of_nodup (List.nodup_range.filter _)]
  refine congrArg Finset.card (Finset.ext fun k => ?_)
  rw [List.mem_toFinset, List.mem_filter, List.mem_range, mem_errorPositions, bne_iff_ne]

/-! ### The statement -/

/-- Settles O48: the Euclidean step meets no zero remainder and Forney's formula no zero
denominator, so only causes 15 to 17 remain; within the bound the Euclidean step ends at the
locator and the evaluator of the errors themselves. -/
theorem rsdecEndsCleanly : Obligations.RsdecEndsCleanly := by
  unfold Obligations.RsdecEndsCleanly
  refine ⟨fun s d a b c a0 n hfield valid _ ha hb hn hfits hc hsymbols => ?_, ?_⟩
  · refine rsdec_endsCorrected_or_decodeError d hfield valid ha hb ?_
    exact (requireBlock_eq_ok ..).2 ⟨valid, by omega, hfits, hsymbols, by omega⟩
  rintro s t u d a b c a' b' c' a0 n ec changed hfield hcache - hbase ha hb hc hsize hexec hrun hu
    hreceived rfl hfew ha' hb' hc'
  obtain ⟨valid, hdata, -, hfits, hvalid, hgf, -⟩ :=
    rsenc_leaves_codeword hfield hcache ha rfl hc hexec hrun
  obtain ⟨hlegal, hbuilt⟩ := hfield valid
  have hugf : u.gf = s.gf := by
    rw [hu]
    exact hgf
  have hblock : requireBlock u a0 n ec = .ok () := by
    refine (requireBlock_eq_ok ..).2
      ⟨by rw [hu]; exact hvalid, by omega, by omega, fun w hw => ?_, by omega⟩
    obtain ⟨k, hk, rfl⟩ := (mem_readRun ..).1 hw
    exact (hreceived k hk).trans_eq (congrArg GF.size hugf).symm
  have hcount := length_filter_range_ne n (t.blockWord a0) (u.blockWord a0)
  have herr := fewErrors_of_rsenc hfield hcache ha hb hc hsize hexec hrun hreceived (hcount ▸ hfew)
  rw [hbuilt] at herr hugf
  obtain ⟨w, hexec, hw, hrestored, houtside⟩ :=
    herr.rsdec_restores d hlegal hugf hbase ha'.symm hb'.symm hc'.symm hblock
  rw [← hcount] at hw
  exact ⟨w, hexec, hw, hrestored, houtside⟩

end Sys2Proof.Machine
end

section
/-! PROOFS. Edge insertion of the minimal encoder (48_minimal_encoding_reference.md R204). -/

namespace Sys2Proof.Machine

/-! ### What `add_edge` does to its own vertex and to the others -/

/-- The vertex the edge ends at had no chain. -/
theorem slotAt_addEdge_of_nil {model : CostModel} {input : EncoderInput} {table : SlotTable}
    {e : Edge} {prev : List Edge}
    (h : slotAt table (e.start + e.len) (model.endSlot input e prev) = []) :
    slotAt (addEdge model input table e prev) (e.start + e.len) (model.endSlot input e prev) =
      e :: prev := by
  simp only [addEdge, h, slotAt_cons_same]

/-- The vertex the edge ends at had a chain: strictly cheaper replaces, ties keep the first. -/
theorem slotAt_addEdge_of_cons {model : CostModel} {input : EncoderInput} {table : SlotTable}
    {e best : Edge} {prev rest : List Edge}
    (h : slotAt table (e.start + e.len) (model.endSlot input e prev) = best :: rest) :
    slotAt (addEdge model input table e prev) (e.start + e.len) (model.endSlot input e prev) =
      if e.total < best.total then e :: prev else best :: rest := by
  simp only [addEdge, h]
  split
  case isTrue => exact slotAt_cons_same ..
  case isFalse => exact h

/-- `slotAt_addEdge_ne` with the slot beside the position: a vertex is the pair of both (R202). -/
theorem slotAt_addEdge_of_ne_vertex {model : CostModel} {input : EncoderInput} {table : SlotTable}
    {e : Edge} {prev : List Edge} {p m : Nat}
    (h : ¬(p = e.start + e.len ∧ m = model.endSlot input e prev)) :
    slotAt (addEdge model input table e prev) p m = slotAt table p m := by
  rcases addEdge_cases model input table e prev with kept | filed
  · rw [kept]
  · rw [filed, slotAt_cons_ne _ _ _ _ _ _ fun ⟨hp, hm⟩ => h ⟨hp.symm, hm.symm⟩]

/-! ### The statement -/

/-- Settles O59: the edge's own vertex by what it held before, every other vertex by the frame. -/
theorem addEdgeRelaxes : Obligations.AddEdgeRelaxes := by
  unfold Obligations.AddEdgeRelaxes
  intro model input table e prev p m
  refine ⟨?own, slotAt_addEdge_of_ne_vertex⟩
  case own =>
    rintro rfl rfl
    exact ⟨slotAt_addEdge_of_nil, fun _ _ => slotAt_addEdge_of_cons⟩

end Sys2Proof.Machine
end

section
/-! PROOFS. Trap entry and the completion line (60_exceptions.md R225, R229). -/

namespace Sys2Proof.Machine

/-- R229: the line is high exactly in a stopped state with `IE` set. -/
theorem State.irq_eq_true_iff (s : State) :
    s.irq = true ↔ s.irqEnable = true ∧ (s.runState = .halted ∨ s.runState = .faulted) := by
  rw [State.irq, Bool.and_eq_true, Bool.or_eq_true, beq_iff_eq, beq_iff_eq]

/-- A faulted state is stopped, so `IE` alone decides the line. -/
theorem State.irq_of_faulted {s : State} (h : s.runState = .faulted) : s.irq = s.irqEnable :=
  Bool.eq_iff_iff.2 <| s.irq_eq_true_iff.trans (and_iff_left (.inr h))

@[simp] theorem State.trap_irq (s : State) (e : Trap) : (s.trap e).irq = s.irqEnable :=
  (State.irq_of_faulted (s.trap_runState e)).trans (s.trap_irqEnable e)

/-! ### The statement -/

/-- Settles O9: trap entry cause by cause along the table of R220; the line after it, because the
state it leaves is faulted. -/
theorem trapEntryAndCompletionLine : Obligations.TrapEntryAndCompletionLine := by
  unfold Obligations.TrapEntryAndCompletionLine
  refine ⟨fun s c info => ⟨?entry, s.trap_irq ⟨c, info⟩⟩, State.irq_eq_true_iff⟩
  case entry => cases c <;> rfl

end Sys2Proof.Machine
end

section
/-! PROOFS. Encoding and decoding are inverse to each other (30_encoding.md R61 to R67, R71). -/

namespace Sys2Proof

open Sys2Proof.Machine Sys2Proof.Laws

/-! ### The fields of a word put together (R61, R62) -/

/-- The part of a word that stands directly above its last part. -/
theorem extract_middle {v m n : Nat} (hi : BitVec v) (x : BitVec m) (lo : BitVec n) :
    (hi ++ (x ++ lo)).extractLsb' n m = x := by
  rw [BitVec.extractLsb'_append_eq_of_add_le (Nat.add_comm n m).le, BitVec.extractLsb'_append_eq_left]

theorem extract_below {v w start len : Nat} (hi : BitVec v) (lo : BitVec w) (h : start + len ≤ w) :
    (hi ++ lo).extractLsb' start len = lo.extractLsb' start len :=
  BitVec.extractLsb'_append_eq_of_add_le h

section
variable (op : BitVec 8) (d a b c : BitVec 4) (imm : Word)

theorem fieldD_wordR : fieldD (wordR op d a b c) = d := extract_middle op d _

theorem fieldA_wordR : fieldA (wordR op d a b c) = a :=
  (extract_below op _ (by decide)).trans (extract_middle d a (b ++ (c ++ 0#8)))

theorem fieldB_wordR : fieldB (wordR op d a b c) = b :=
  (extract_below op _ (by decide)).trans <| (extract_below d _ (by decide)).trans
    (extract_middle a b (c ++ 0#8))

theorem fieldC_wordR : fieldC (wordR op d a b c) = c :=
  (extract_below op _ (by decide)).trans <| (extract_below d _ (by decide)).trans <|
    (extract_below a _ (by decide)).trans (extract_middle b c 0#8)

theorem fieldLow8_wordR : fieldLow8 (wordR op d a b c) = 0 :=
  (extract_below op _ (by decide)).trans <| (extract_below d _ (by decide)).trans <|
    (extract_below a _ (by decide)).trans <| (extract_below b _ (by decide)).trans
      BitVec.extractLsb'_append_eq_right

theorem fieldD_wordI : fieldD (wordI op d a imm) = d := extract_middle op d _

theorem fieldA_wordI : fieldA (wordI op d a imm) = a :=
  (extract_below op _ (by decide)).trans (extract_middle d a imm)

theorem fieldImm_wordI : fieldImm (wordI op d a imm) = imm :=
  (extract_below op _ (by decide)).trans <| (extract_below d _ (by decide)).trans
    BitVec.extractLsb'_append_eq_right

theorem zeroN_wordN : zeroN (wordN op) = true := by
  rw [zeroN, wordN, beq_iff_eq]
  exact BitVec.extractLsb'_append_eq_right

end

/-! ### A word is put together from its fields -/

theorem eq_append_fields (w : Word32) :
    w = fieldOp w ++ (fieldD w ++ (fieldA w ++ fieldImm w)) := by
  have hlow : fieldA w ++ fieldImm w = w.extractLsb' 0 20 :=
    BitVec.extractLsb'_append_extractLsb'_eq_extractLsb' rfl
  have hmid : fieldD w ++ w.extractLsb' 0 20 = w.extractLsb' 0 24 :=
    BitVec.extractLsb'_append_extractLsb'_eq_extractLsb' rfl
  have hall : fieldOp w ++ w.extractLsb' 0 24 = w.extractLsb' 0 32 :=
    BitVec.extractLsb'_append_extractLsb'_eq_extractLsb' rfl
  rw [hlow, hmid, hall]
  exact BitVec.extractLsb'_eq_self.symm

theorem wordI_fields (w : Word32) :
    wordI (fieldOp w) (fieldD w) (fieldA w) (fieldImm w) = w := (eq_append_fields w).symm

theorem fieldImm_eq_append (w : Word32) :
    fieldImm w = fieldB w ++ (fieldC w ++ fieldLow8 w) := by
  have hlow : fieldC w ++ fieldLow8 w = w.extractLsb' 0 12 :=
    BitVec.extractLsb'_append_extractLsb'_eq_extractLsb' rfl
  have hall : fieldB w ++ w.extractLsb' 0 12 = w.extractLsb' 0 16 :=
    BitVec.extractLsb'_append_extractLsb'_eq_extractLsb' rfl
  rw [hlow, hall, fieldImm]

theorem wordR_fields {w : Word32} (h : fieldLow8 w = 0) :
    wordR (fieldOp w) (fieldD w) (fieldA w) (fieldB w) (fieldC w) = w := by
  conv_rhs => rw [eq_append_fields w, fieldImm_eq_append, h]
  rfl

theorem wordN_fieldOp {w : Word32} (h : zeroN w = true) : wordN (fieldOp w) = w := by
  have hzero : w.extractLsb' 0 24 = 0 := beq_iff_eq.1 h
  have hall : fieldOp w ++ w.extractLsb' 0 24 = w.extractLsb' 0 32 :=
    BitVec.extractLsb'_append_extractLsb'_eq_extractLsb' rfl
  rw [wordN, show (0#24) = w.extractLsb' 0 24 from hzero.symm, hall]
  exact BitVec.extractLsb'_eq_self

/-! ### Register fields (R63) -/

@[simp] theorem xField_xBits (r : XReg) : xField (xBits r) = r := by revert r; decide

@[simp] theorem xBits_xField (f : BitVec 4) : xBits (xField f) = f := by revert f; decide

@[simp] theorem vField_vBits (r : VReg) : vField (vBits r) = r := by revert r; decide

theorem vBits_vField {f : BitVec 4} (h : f.toNat < 8) : vBits (vField f) = f := by
  revert f; decide

theorem vBits_lt (r : VReg) : (vBits r).toNat < 8 := by revert r; decide

theorem vBits_inj {r q : VReg} : vBits r = vBits q ↔ r = q := by revert r q; decide

/-- A list of vector fields is in range when its head is and its rest is; a written one always is. -/
theorem allBelowEight_vBits {r : VReg} {l : List (BitVec 4)} :
    AllBelowEight (vBits r :: l) ↔ AllBelowEight l :=
  List.forall_mem_cons.trans (and_iff_right (vBits_lt r))

theorem allBelowEight_empty : AllBelowEight [] := List.forall_mem_nil _

/-! ### Unused fields (R67 case 2) -/

section
variable (op : BitVec 8) (d a b c : BitVec 4)

theorem zeroLow_wordR : zeroLow (wordR op d a b c) = true := beq_iff_eq.2 (fieldLow8_wordR ..)

theorem zeroC_wordR : zeroC (wordR op d a b 0) = true := by
  rw [zeroC, fieldC_wordR, fieldLow8_wordR]
  rfl

theorem zeroBC_wordR : zeroBC (wordR op d a 0 0) = true := by
  rw [zeroBC, fieldB_wordR, fieldC_wordR, fieldLow8_wordR]
  rfl

theorem zeroD_wordR : zeroD (wordR op 0 a b c) = true := beq_iff_eq.2 (fieldD_wordR ..)

end

/-! ### From an instruction to its word and back (R61 to R65, R71) -/

/-- The decoder's checks on the word of an instruction: unused fields are zero, vector fields name
registers, and the fields read back are those the instruction was put together from. -/
theorem checked_eq_ok_of_eq {unused distinct : Bool} {vectors : List (BitVec 4)} {i j : Instr}
    (hunused : unused = true) (hvectors : AllBelowEight vectors) (hdistinct : distinct = true)
    (hij : j = i) : checked unused vectors distinct i = .ok j :=
  (checked_eq_ok_iff ..).2 ⟨⟨hunused, hvectors, hdistinct⟩, hij⟩

theorem decode_encode {i : Instr} (hi : i.wellFormed = true) : decode (encode i) = .ok i := by
  cases i with
  | nop | halt | gfinit =>
    rw [encode, decode, fieldOp_wordN]
    exact checked_eq_ok_of_eq (zeroN_wordN _) (List.forall_mem_nil _) rfl rfl
  | addi | beq | bne | bltu | ldw | stw =>
    rw [encode, decode, fieldOp_wordI]
    refine checked_eq_ok_of_eq rfl (List.forall_mem_nil _) rfl ?_
    simp only [fieldD_wordI, fieldA_wordI, fieldImm_wordI, xField_xBits]
  | li | csrr =>
    rw [encode, decode, fieldOp_wordI]
    refine checked_eq_ok_of_eq (beq_iff_eq.2 (fieldA_wordI ..)) (List.forall_mem_nil _) rfl ?_
    simp only [fieldD_wordI, fieldImm_wordI, xField_xBits]
  | csrw =>
    rw [encode, decode, fieldOp_wordI]
    refine checked_eq_ok_of_eq (beq_iff_eq.2 (fieldD_wordI ..)) (List.forall_mem_nil _) rfl ?_
    simp only [fieldA_wordI, fieldImm_wordI, xField_xBits]
  | jmp target =>
    rw [encode, decode, fieldOp_wordI]
    refine checked_eq_ok_of_eq ?_ (List.forall_mem_nil _) rfl (by rw [fieldImm_wordI])
    rw [zeroD, zeroA, fieldD_wordI, fieldA_wordI]
    rfl
  | mov | gfinv | gfexp | gflog | vst | vlen | vmov | pnorm | pdeg | pisz | pgen | rschien =>
    rw [encode, decode, fieldOp_wordR]
    refine checked_eq_ok_of_eq (zeroBC_wordR ..) ?_ rfl ?_ <;>
      simp only [fieldD_wordR, fieldA_wordR, xField_xBits, vField_vBits, allBelowEight_vBits,
        allBelowEight_empty]
  | add | sub | gfadd | gfmul | vld | vget | pmono | pcoef | padd | pmul | pscale | peval | rsforn =>
    rw [encode, decode, fieldOp_wordR]
    refine checked_eq_ok_of_eq (zeroC_wordR ..) ?_ rfl ?_ <;>
      simp only [fieldD_wordR, fieldA_wordR, fieldB_wordR, xField_xBits, vField_vBits, allBelowEight_vBits,
        allBelowEight_empty]
  | pmulm | rssyn | rscorr | rsdec =>
    rw [encode, decode, fieldOp_wordR]
    refine checked_eq_ok_of_eq (zeroLow_wordR ..) ?_ rfl ?_ <;>
      simp only [fieldD_wordR, fieldA_wordR, fieldB_wordR, fieldC_wordR, xField_xBits, vField_vBits,
        allBelowEight_vBits, allBelowEight_empty]
  | pdiv d a | rseuc d a =>
    rw [encode, decode, fieldOp_wordR]
    have hne : vBits d ≠ vBits a := mt vBits_inj.1 (bne_iff_ne.1 hi)
    refine checked_eq_ok_of_eq (zeroLow_wordR ..) ?_ ?_ ?_ <;>
      simp only [fieldD_wordR, fieldA_wordR, fieldB_wordR, fieldC_wordR, xField_xBits, vField_vBits,
        allBelowEight_vBits, allBelowEight_empty, bne_iff_ne, ne_eq, hne, not_false_eq_true]
  | rsgen a =>
    rw [encode, decode, fieldOp_wordR]
    refine checked_eq_ok_of_eq ?_ (List.forall_mem_nil _) rfl (by rw [fieldA_wordR, xField_xBits])
    exact Bool.and_eq_true_iff.2 ⟨zeroD_wordR .., zeroBC_wordR ..⟩
  | rsenc =>
    rw [encode, decode, fieldOp_wordR]
    refine checked_eq_ok_of_eq (Bool.and_eq_true_iff.2 ⟨zeroD_wordR .., zeroLow_wordR ..⟩)
      (List.forall_mem_nil _) rfl ?_
    simp only [fieldA_wordR, fieldB_wordR, fieldC_wordR, xField_xBits]

/-! ### From a word to its instruction and back (R63, R67) -/

theorem fields_of_zeroC {w : Word32} (h : zeroC w = true) : fieldC w = 0#4 ∧ fieldLow8 w = 0 := by
  rw [zeroC, Bool.and_eq_true, beq_iff_eq, beq_iff_eq] at h
  exact h

theorem fields_of_zeroBC {w : Word32} (h : zeroBC w = true) :
    fieldB w = 0#4 ∧ fieldC w = 0#4 ∧ fieldLow8 w = 0 := by
  rw [zeroBC, Bool.and_eq_true, Bool.and_eq_true, beq_iff_eq, beq_iff_eq, beq_iff_eq, and_assoc] at h
  exact h

theorem vField_ne {d a : BitVec 4} (hd : d.toNat < 8) (ha : a.toNat < 8) (hne : (d != a) = true) :
    (vField d != vField a) = true := by
  rw [bne_iff_ne] at hne ⊢
  intro h
  rw [← vBits_vField hd, ← vBits_vField ha, h] at hne
  exact hne rfl

theorem eq_ofNat_of_toNat_eq {w : Nat} {x : BitVec w} {n : Nat} (h : x.toNat = n) :
    x = BitVec.ofNat w n := by
  rw [← h, BitVec.ofNat_toNat, BitVec.setWidth_eq]

theorem encode_of_decode {w : Word32} {i : Instr} (h : decode w = .ok i) :
    encode i = w ∧ i.wellFormed = true := by
  unfold decode at h
  split at h
  case h_47 => cases h
  all_goals
    rename_i hop
    obtain ⟨⟨hunused, hvectors, hdistinct⟩, rfl⟩ := (checked_eq_ok_iff ..).1 h
    replace hop := eq_ofNat_of_toNat_eq hop
    simp only [AllBelowEight, List.forall_mem_cons] at hvectors
    clear h
  -- format N
  case h_1 | h_2 | h_16 =>
    refine ⟨?_, rfl⟩
    rw [← wordN_fieldOp hunused, hop]
    rfl
  -- format I: no field unused, one, two
  case h_7 | h_9 | h_10 | h_11 | h_12 | h_13 =>
    refine ⟨?_, rfl⟩
    conv_rhs => rw [← wordI_fields w, hop]
    simp only [encode, xBits_xField]
  case h_3 | h_14 | h_15 =>
    refine ⟨?_, rfl⟩
    conv_rhs => rw [← wordI_fields w, hop, beq_iff_eq.1 hunused]
    simp only [encode, xBits_xField]
  case h_8 =>
    obtain ⟨hd, ha⟩ := Bool.and_eq_true_iff.1 hunused
    refine ⟨?_, rfl⟩
    conv_rhs => rw [← wordI_fields w, hop, beq_iff_eq.1 hd, beq_iff_eq.1 ha]
    rfl
  -- format R: `b` and `c` unused, with and without `d`
  case h_4 | h_19 | h_20 | h_21 | h_23 | h_24 | h_26 | h_27 | h_29 | h_31 | h_39 | h_43 =>
    obtain ⟨hb, hc, hlow⟩ := fields_of_zeroBC hunused
    refine ⟨?_, rfl⟩
    conv_rhs => rw [← wordR_fields hlow, hop, hb, hc]
    simp only [encode, xBits_xField, vBits_vField, hvectors]
  case h_38 =>
    obtain ⟨hd, hbc⟩ := Bool.and_eq_true_iff.1 hunused
    obtain ⟨hb, hc, hlow⟩ := fields_of_zeroBC hbc
    refine ⟨?_, rfl⟩
    conv_rhs => rw [← wordR_fields hlow, hop, beq_iff_eq.1 hd, hb, hc]
    simp only [encode, xBits_xField]
  -- `c` unused
  case h_5 | h_6 | h_17 | h_18 | h_22 | h_25 | h_28 | h_30 | h_32 | h_33 | h_34 | h_37 | h_44 =>
    obtain ⟨hc, hlow⟩ := fields_of_zeroC hunused
    refine ⟨?_, rfl⟩
    conv_rhs => rw [← wordR_fields hlow, hop, hc]
    simp only [encode, xBits_xField, vBits_vField, hvectors]
  -- all four fields used, and `d` unused
  case h_35 | h_41 | h_45 | h_46 =>
    refine ⟨?_, rfl⟩
    conv_rhs => rw [← wordR_fields (beq_iff_eq.1 hunused), hop]
    simp only [encode, xBits_xField, vBits_vField, hvectors]
  case h_40 =>
    obtain ⟨hd, hlow⟩ := Bool.and_eq_true_iff.1 hunused
    refine ⟨?_, rfl⟩
    conv_rhs => rw [← wordR_fields (beq_iff_eq.1 hlow), hop, beq_iff_eq.1 hd]
    simp only [encode, xBits_xField]
  -- two destinations
  case h_36 | h_42 =>
    refine ⟨?_, vField_ne hvectors.1 hvectors.2.1 hdistinct⟩
    conv_rhs => rw [← wordR_fields (beq_iff_eq.1 hunused), hop]
    simp only [encode, xBits_xField, vBits_vField, hvectors]

/-! ### The statements -/

/-- Settles O1: the decoder reads back the fields each format put into the word. -/
theorem encodeThenDecode : Obligations.EncodeThenDecode := by
  unfold Obligations.EncodeThenDecode
  exact fun _ => decode_encode

/-- Settles O2: the unused fields of a legal word are zero and its vector fields below 8, so the word
is put together from the fields its instruction keeps. -/
theorem decodeThenEncode : Obligations.DecodeThenEncode := by
  unfold Obligations.DecodeThenEncode
  exact fun _ _ => encode_of_decode

/-- Settles O5: each word runs through the decoder. -/
theorem writtenOutWordsDecode : Obligations.WrittenOutWordsDecode := by
  unfold Obligations.WrittenOutWordsDecode
  decide

end Sys2Proof
end

section
/-! PROOFS. What every instruction leaves unchanged and how it ends (10_state.md R12 to R30,
60_exceptions.md R228, R230): case analyses over the shapes a next state can have. -/

namespace Sys2Proof.Machine

/-! ### The shapes of a next state -/

theorem exists_writeRun_eq (s : State) (a : Nat) (l : List Word) :
    ∃ m, s.writeRun a l = { s with dmem := m } := ⟨_, sameButDmem_writeRun l s a⟩

theorem exists_rsApply_eq (s : State) (a0 n i : Nat) (locs mags : List Word) :
    ∃ m, (s.rsApply a0 n i locs mags).1 = { s with dmem := m } :=
  ⟨_, sameButDmem_rsApply a0 n locs mags s i⟩

theorem exists_warmCache_eq (s : State) (d : Nat) :
    ∃ c g, s.warmCache d = { s with genCache := c, genTop := g } :=
  ⟨_, _, warmCache_eq s d⟩

/-- The next states of an instruction as record updates: which fields it can have changed, with DMEM
and the generator cache left open. -/
inductive Shape (i : Instr) (s : State) : State → Prop where
  | halt (h : i = .halt) : Shape i s { s with runState := .halted }
  | transfer (pc : Word) (h : pc = s.pc + 1 ∨ transferTarget i = some pc) :
      Shape i s { s with pc := pc }
  | stored (m : Memory 16) (c : List Poly) (g : BitVec 12) :
      Shape i s { s with dmem := m, genCache := c, genTop := g, pc := s.pc + 1 }
  | scalar (d : XReg) (w : Word) (m : Memory 16) (h : destX i = some d) :
      Shape i s { s with x := s.x.set d.val w, dmem := m, pc := s.pc + 1 }
  | vector (d : VReg) (p : Poly) (c : List Poly) (g : BitVec 12) (h : destV i = [d]) :
      Shape i s { s with v := s.v.set d.val p, genCache := c, genTop := g, pc := s.pc + 1 }
  | vectors (d a : VReg) (p q : Poly) (h : destV i = [d, a]) :
      Shape i s { s with v := (s.v.set d.val p).set a.val q, pc := s.pc + 1 }
  | fieldCsr (a : XReg) (n : Word) (t : State) (h : i = .csrw a n)
      (k : t = { s with
        gfPrim := t.gfPrim, gfSize := t.gfSize, gfBase := t.gfBase, gfValid := false
        pc := s.pc + 1 }) : Shape i s t
  | buildField (h : i = .gfinit) : Shape i s s.buildField.advance
  | trap (m : Memory 16) (e : Trap) : Shape i s (State.trap { s with dmem := m } e)

section
variable {i : Instr} {s t : State}

theorem Effect.shape (h : Effect i s t) : Shape i s t := by
  cases h with
  | nothing => exact .stored _ _ _
  | halt h => exact .halt h
  | transfer pc target h k => exact .transfer pc (k.imp_right fun (hpc : pc = target) => hpc ▸ h)
  | scalar d w h => exact .scalar d w _ h
  | vector d p h => exact .vector d p _ _ h
  | vectors d a p q h => exact .vectors d a p q h
  | store => exact .stored _ _ _
  | storeRun d a =>
    obtain ⟨m, hm⟩ := exists_writeRun_eq s (s.readX a).toNat (s.readV d)
    rw [hm]
    exact .stored _ _ _
  | fieldCsr a n u h k =>
    refine .fieldCsr a n _ h ?_
    obtain ⟨-, rfl⟩ | ⟨-, rfl⟩ | ⟨-, rfl⟩ := (writeFieldCsr_eq_some ..).1 k <;> rfl
  | buildField h => exact .buildField h
  | warm a =>
    obtain ⟨c, g, hcg⟩ := exists_warmCache_eq s (s.readX a).toNat
    rw [hcg]
    exact .stored _ _ _
  | generator d a h =>
    obtain ⟨c, g, hcg⟩ := exists_warmCache_eq s (s.readX a).toNat
    rw [hcg]
    exact .vector d _ _ _ (h ▸ rfl)
  | encode a b c check =>
    obtain ⟨k, g, hkg⟩ := exists_warmCache_eq s (s.readX c).toNat
    obtain ⟨m, hm⟩ := exists_writeRun_eq { s with genCache := k, genTop := g }
      ((s.readX a).toNat + (s.readX b).toNat) check
    rw [hkg, hm]
    exact .stored _ _ _
  | corrected a0 n locs mags _ _ _ _ _ count =>
    obtain ⟨m, hm⟩ := exists_rsApply_eq s a0 n 0 locs mags
    rw [hm] at count
    obtain rfl | ⟨d, w, hd, rfl⟩ := count
    · exact .stored _ _ _
    · exact .scalar d w _ hd
  | partlyCorrected a0 n locs mags e =>
    obtain ⟨m, hm⟩ := exists_rsApply_eq s a0 n 0 locs mags
    rw [hm]
    exact .trap m e

theorem exec_shape (h : exec i s = .next t) : Shape i s t := by
  obtain heffect | ⟨e, rfl⟩ := exec_effect i s t h
  · exact heffect.shape
  · exact .trap _ e

/-! ### How an instruction ends (R12, R80, R225) -/

/-- The pc and the trap registers when the sequencer goes on, halts, or traps. -/
theorem Shape.ending (h : Shape i s t) :
    (t.runState = s.runState ∧ (t.pc = s.pc + 1 ∨ transferTarget i = some t.pc) ∧
      t.cause = s.cause ∧ t.epc = s.epc ∧ t.einfo = s.einfo) ∨
    (i = .halt ∧ t = { s with runState := .halted }) ∨
    (t.runState = .faulted ∧ t.pc = s.pc ∧ t.epc = s.pc ∧ ∃ c : Cause, t.cause = causeCode c) := by
  cases h with
  | halt h => exact .inr (.inl ⟨h, rfl⟩)
  | transfer pc h => exact .inl ⟨rfl, h, rfl, rfl, rfl⟩
  | fieldCsr a n _ h k =>
    rw [k]
    exact .inl ⟨rfl, .inl rfl, rfl, rfl, rfl⟩
  | stored | scalar | vector | vectors | buildField =>
    exact .inl ⟨rfl, .inl rfl, rfl, rfl, rfl⟩
  | trap m e => exact .inr (.inr ⟨rfl, rfl, rfl, e.cause, rfl⟩)

/-- How a running machine ends (R237). -/
theorem Shape.cases_of_running (h : Shape i s t) (hrun : s.runState = .run) :
    (t.runState = .run ∧ (t.pc = s.pc + 1 ∨ transferTarget i = some t.pc)) ∨
    (t.runState = .halted ∧ t.pc = s.pc) ∨
    (t.runState = .faulted ∧ t.pc = s.pc ∧ t.epc = s.pc ∧ ∃ c : Cause, t.cause = causeCode c) := by
  obtain ⟨run, pc, -⟩ | ⟨-, rfl⟩ | htrap := h.ending
  · exact .inl ⟨run.trans hrun, pc⟩
  · exact .inr (.inl ⟨rfl, rfl⟩)
  · exact .inr (.inr htrap)

/-! ### Registers (R65) -/

theorem Shape.readX_eq (h : Shape i s t) {r : XReg} (hr : destX i ≠ some r) :
    t.readX r = s.readX r := by
  cases h with
  | scalar d w m h => exact State.readX_writeX_ne s d r w fun hrd => hr (hrd ▸ h)
  | fieldCsr a n _ h k =>
    rw [k]
    rfl
  | halt | transfer | stored | vector | vectors | buildField | trap => rfl

theorem Shape.readV_eq (h : Shape i s t) {r : VReg} (hr : r ∉ destV i) :
    t.readV r = s.readV r := by
  cases h with
  | vector d p c g h =>
    rw [h, List.mem_singleton] at hr
    exact State.readV_writeV_ne s d r p hr
  | vectors d a p q h =>
    rw [h, List.mem_cons, List.mem_singleton, not_or] at hr
    exact (State.readV_writeV_ne (s.writeV d p) a r q hr.2).trans
      (State.readV_writeV_ne s d r p hr.1)
  | buildField h =>
    subst h
    exact absurd (by revert r; decide) hr
  | fieldCsr a n _ h k =>
    rw [k]
    rfl
  | halt | transfer | stored | scalar | trap => rfl

/-! ### What no instruction changes (R15, R41, R230) -/

theorem Shape.program_frame (h : Shape i s t) :
    t.imem = s.imem ∧ t.entry = s.entry ∧ t.irqEnable = s.irqEnable ∧
      t.powerCycle = s.powerCycle ∧ t.hostQueue = s.hostQueue ∧ t.hostReply = s.hostReply := by
  cases h with
  | fieldCsr a n _ h k =>
    rw [k]
    exact ⟨rfl, rfl, rfl, rfl, rfl, rfl⟩
  | halt | transfer | stored | scalar | vector | vectors | buildField | trap =>
    exact ⟨rfl, rfl, rfl, rfl, rfl, rfl⟩

/-- Only `CSRW` changes the field registers, `CSRW` and `GFINIT` change `VALID`. -/
theorem Shape.field_frame (h : Shape i s t) (hcsrw : ∀ a n, i ≠ .csrw a n) :
    t.gfPrim = s.gfPrim ∧ t.gfSize = s.gfSize ∧ t.gfBase = s.gfBase ∧
      (i ≠ .gfinit → t.gfValid = s.gfValid) := by
  cases h with
  | fieldCsr a n _ h k => exact absurd h (hcsrw a n)
  | buildField h => exact ⟨rfl, rfl, rfl, fun hne => absurd h hne⟩
  | halt | transfer | stored | scalar | vector | vectors | trap =>
    exact ⟨rfl, rfl, rfl, fun _ => rfl⟩

/-- Only `GFINIT` changes the tables. -/
theorem Shape.table_frame (h : Shape i s t) (hgfinit : i ≠ .gfinit) :
    t.expTable = s.expTable ∧ t.logTable = s.logTable := by
  cases h with
  | fieldCsr a n _ h k =>
    rw [k]
    exact ⟨rfl, rfl⟩
  | buildField h => exact absurd h hgfinit
  | halt | transfer | stored | scalar | vector | vectors | trap => exact ⟨rfl, rfl⟩

/-- The generator cache grows by `RSGEN`, `PGEN` and `RSENC`, is rebuilt by `GFINIT`, and stays as it is
under every other instruction (R171). -/
theorem Effect.cache (h : Effect i s t) :
    (t.genCache = s.genCache ∧ t.genTop = s.genTop) ∨ i = .gfinit ∨
    ∃ d, ((∃ a, i = .rsgen a) ∨ (∃ r a, i = .pgen r a) ∨ ∃ a b c, i = .rsenc a b c) ∧ d < 4096 ∧
      t.genCache = (s.warmCache d).genCache ∧ t.genTop = (s.warmCache d).genTop := by
  cases h with
  | nothing | halt | transfer | scalar | vector | vectors | store => exact .inl ⟨rfl, rfl⟩
  | storeRun d a =>
    obtain ⟨m, hm⟩ := exists_writeRun_eq s (s.readX a).toNat (s.readV d)
    rw [hm]
    exact .inl ⟨rfl, rfl⟩
  | fieldCsr a n u h k =>
    obtain ⟨-, rfl⟩ | ⟨-, rfl⟩ | ⟨-, rfl⟩ := (writeFieldCsr_eq_some ..).1 k
    all_goals exact .inl ⟨rfl, rfl⟩
  | buildField h => exact .inr (.inl h)
  | warm a h _ k => exact .inr (.inr ⟨_, .inl ⟨a, h⟩, k, rfl, rfl⟩)
  | generator d a h _ k => exact .inr (.inr ⟨_, .inr (.inl ⟨d, a, h⟩), k, rfl, rfl⟩)
  | encode a b c check h _ n1 _ fits =>
    obtain ⟨m, hm⟩ := exists_writeRun_eq (s.warmCache (s.readX c).toNat)
      ((s.readX a).toNat + (s.readX b).toNat) check
    rw [hm]
    exact .inr (.inr ⟨_, .inr (.inr ⟨a, b, c, h⟩), by omega, rfl, rfl⟩)
  | corrected a0 n locs mags _ _ _ _ _ count =>
    obtain ⟨m, hm⟩ := exists_rsApply_eq s a0 n 0 locs mags
    rw [hm] at count
    obtain rfl | ⟨d, w, -, rfl⟩ := count
    all_goals exact .inl ⟨rfl, rfl⟩
  | partlyCorrected a0 n locs mags =>
    obtain ⟨m, hm⟩ := exists_rsApply_eq s a0 n 0 locs mags
    rw [hm]
    exact .inl ⟨rfl, rfl⟩

end

/-! ### DMEM (R93, R141, R175, R185) -/

section
variable {i : Instr} {s t : State}

/-- With a built field and cache the check symbols of `RSENC` are `ecCount` many. -/
theorem length_check {data check : List Word} {ec : Nat} (hfield : s.FieldBuilt)
    (hcache : s.CacheBuilt) (valid : s.gfValid = true) (hne : data ≠ [])
    (hdata : ∀ w ∈ data, w.toNat < s.gfSize.toNat) (hec : ec ≠ 0)
    (h : rsEncode s.gf (s.genFetch ec) data ec = .ok check) : check.length = ec := by
  obtain ⟨hlegal, hgf⟩ := hfield valid
  have hdata : AreSymbols s.gf data := hdata
  rw [hcache.genFetch_eq valid, hgf] at h
  rw [hgf] at hdata
  obtain ⟨check', hcheck, hlen, -⟩ := hlegal.exists_rsEncode hne hdata hec
  obtain rfl := Except.ok.inj (hcheck.symm.trans h)
  exact hlen

theorem readRun_ne_nil {a n : Nat} (hn : n ≠ 0) : s.readRun a n ≠ [] :=
  List.ne_nil_of_length_pos (by rw [readRun_length]; exact Nat.pos_of_ne_zero hn)

/-- The addresses the corrections of an instruction go to are those `storedTo` lists. -/
theorem storedTo_of_plannedCorrections {a0 n : Nat} {locs mags : List Word}
    (h : plannedCorrections i s = some (a0, n, locs, mags)) :
    storedTo i s = locs.map (correctionAddress s.gf a0 n) := by
  cases i with
  | rscorr d a b c =>
    cases h
    rfl
  | rsdec d a b c =>
    simp only [plannedCorrections, storedTo] at h ⊢
    split at h
    · next hplan =>
      cases h
      rfl
    · cases h
  | _ => cases h

theorem Effect.readDmem_eq (h : Effect i s t) (hfield : s.FieldBuilt) (hcache : s.CacheBuilt)
    {addr : Nat} (haddr : addr ∉ storedTo i s) : t.readDmem addr = s.readDmem addr := by
  cases h with
  | nothing | halt | transfer | scalar | vector | vectors | buildField => rfl
  | fieldCsr a n u h k =>
    obtain ⟨-, rfl⟩ | ⟨-, rfl⟩ | ⟨-, rfl⟩ := (writeFieldCsr_eq_some ..).1 k <;> rfl
  | store d a offset h =>
    subst h
    exact State.readDmem_writeDmem_ne _ _ _ _ (mt List.mem_singleton.2 haddr)
  | storeRun d a h =>
    subst h
    refine State.readDmem_writeRun_outside _ _ _ _ fun k hk he => haddr ?_
    exact List.mem_map.2 ⟨k, List.mem_range.2 hk, he.symm⟩
  | warm a => rw [warmCache_eq]; rfl
  | generator d a => rw [warmCache_eq]; rfl
  | encode a b c check h valid n1 ec1 _ symbols k =>
    subst h
    have hlen := length_check hfield hcache valid (readRun_ne_nil n1) symbols ec1 k
    rw [State.advance_readDmem, State.readDmem_writeRun_outside, warmCache_eq]
    · rfl
    · exact fun k hk he => haddr (List.mem_map.2 ⟨k, List.mem_range.2 (hlen ▸ hk), he.symm⟩)
  | corrected a0 n locs mags h _ _ _ _ count =>
    rw [storedTo_of_plannedCorrections h] at haddr
    have hkept := readDmem_rsApply_outside a0 n locs mags s 0 addr haddr
    obtain rfl | ⟨d, w, -, rfl⟩ := count <;> exact hkept
  | partlyCorrected a0 n locs mags e h =>
    rw [storedTo_of_plannedCorrections h] at haddr
    exact readDmem_rsApply_outside a0 n locs mags s 0 addr haddr

end

/-! ### Corrections up to a bad location (R185) -/

section
variable {a0 n : Nat}

/-- A trap comes from the first location outside the block. -/
theorem exists_badLocation {locs mags : List Word} {s : State} {i : Nat} {e : Trap}
    (h : (s.rsApply a0 n i locs mags).2 = some e) :
    ∃ k loc, locs[k]? = some loc ∧ k < mags.length ∧ n - 1 < logAt s.gf loc ∧
      ∀ y ∈ locs.take k, logAt s.gf y ≤ n - 1 := by
  induction locs generalizing mags s i with
  | nil => cases h
  | cons loc locs ih =>
    cases mags with
    | nil => cases h
    | cons mag mags =>
      rw [State.rsApply] at h
      split at h
      · next hbad => exact ⟨0, loc, rfl, Nat.succ_pos _, hbad, List.forall_mem_nil _⟩
      · next hgood =>
        obtain ⟨k, loc', hk, hlen, hbad, hbefore⟩ := ih h
        exact ⟨k + 1, loc', hk, Nat.succ_lt_succ hlen, hbad,
          List.forall_mem_cons.2 ⟨Nat.le_of_not_lt hgood, hbefore⟩⟩

/-- At the first location outside the block the corrections stop, with those before it made. -/
theorem rsApply_of_badLocation {locs mags : List Word} {s : State} {i k : Nat} {loc : Word}
    (hk : locs[k]? = some loc) (hlen : k < mags.length) (hbad : n - 1 < logAt s.gf loc)
    (hbefore : ∀ y ∈ locs.take k, logAt s.gf y ≤ n - 1) :
    (s.rsApply a0 n i locs mags).2 = some ⟨.rsBadLocation, BitVec.ofNat 32 (i + k)⟩ ∧
      ∀ addr, (s.rsApply a0 n i locs mags).1.readDmem addr =
        correctedWord s.gf a0 n ((locs.zip mags).take k) addr (s.readDmem addr) := by
  induction k generalizing locs mags s i with
  | zero =>
    obtain ⟨rest, rfl⟩ : ∃ rest, locs = loc :: rest := by
      cases locs with
      | nil => cases hk
      | cons x rest => exact ⟨rest, by rw [Option.some.inj hk]⟩
    cases mags with
    | nil => cases hlen
    | cons mag mags =>
      rw [State.rsApply, if_pos hbad]
      exact ⟨rfl, fun _ => rfl⟩
  | succ k ih =>
    cases locs with
    | nil => cases hk
    | cons x locs =>
      cases mags with
      | nil => cases hlen
      | cons mag mags =>
        obtain ⟨hx, hbefore⟩ := List.forall_mem_cons.1 hbefore
        rw [State.rsApply, if_neg (Nat.not_lt.2 hx)]
        obtain ⟨htrap, hmem⟩ := ih (s := s.writeDmem _ _) (i := i + 1) hk
          (Nat.lt_of_succ_lt_succ hlen) hbad hbefore
        refine ⟨htrap.trans (by rw [Nat.add_assoc, Nat.add_comm 1]), fun addr => ?_⟩
        rw [hmem, List.zip_cons_cons, List.take_succ_cons, correctedWord_cons, State.writeDmem_gf]
        congr 1
        split
        · next haddr =>
          subst haddr
          exact State.readDmem_writeDmem_same _ _ _
        · next haddr => exact State.readDmem_writeDmem_ne _ _ _ _ (Ne.symm haddr)

end

/-- The one effect that leaves the sequencer faulted is that of corrections stopped half-way. -/
theorem Effect.of_faulted {i : Instr} {s t : State} (h : Effect i s t)
    (running : s.runState ≠ .faulted) (fault : t.runState = .faulted) :
    ∃ a0 n locs mags e, plannedCorrections i s = some (a0, n, locs, mags) ∧
      (s.rsApply a0 n 0 locs mags).2 = some e ∧ t = (s.rsApply a0 n 0 locs mags).1.trap e := by
  cases h with
  | partlyCorrected a0 n locs mags e h _ _ k => exact ⟨a0, n, locs, mags, e, h, k, rfl⟩
  | halt => cases fault
  | nothing | transfer | scalar | vector | vectors | store | buildField => exact absurd fault running
  | storeRun d a =>
    rw [State.advance_runState, writeRun_runState] at fault
    exact absurd fault running
  | fieldCsr a n u _ k =>
    rw [State.advance_runState, writeFieldCsr_runState k] at fault
    exact absurd fault running
  | warm a | generator d a =>
    rw [warmCache_eq] at fault
    exact absurd fault running
  | encode a b c check =>
    rw [State.advance_runState, writeRun_runState, warmCache_eq] at fault
    exact absurd fault running
  | corrected a0 n locs mags _ _ _ _ _ count =>
    obtain ⟨m, hm⟩ := exists_rsApply_eq s a0 n 0 locs mags
    rw [hm] at count
    obtain rfl | ⟨d, w, -, rfl⟩ := count <;> exact absurd fault running

/-! ### The statements -/

/-- Settles O8: the pc by the three ways an instruction ends. -/
theorem programCounterRule : Obligations.ProgramCounterRule := by
  unfold Obligations.ProgramCounterRule
  intro i s t hrun hexec
  obtain ⟨run, pc⟩ | ⟨run, pc⟩ | ⟨run, pc, -⟩ := (exec_shape hexec).cases_of_running hrun
  · exact ⟨fun _ => pc, fun hne => absurd run hne⟩
  all_goals exact ⟨fun h => absurd (run.symm.trans h) (by decide), fun _ => pc⟩

/-- Settles O10: an effect that ends faulted is that of corrections stopped at a bad location. -/
theorem trapsArePrecise : Obligations.TrapsArePrecise := by
  unfold Obligations.TrapsArePrecise
  intro i s t hrun hexec hfault
  obtain heffect | htrap := exec_effect i s t hexec
  · obtain ⟨a0, n, locs, mags, e, h, k, rfl⟩ := heffect.of_faulted (hrun.trans_ne (by decide)) hfault
    obtain ⟨j, loc, hj, hlen, hbad, hbefore⟩ := exists_badLocation k
    obtain ⟨htrap, hmem⟩ := rsApply_of_badLocation (i := 0) (a0 := a0) hj hlen hbad hbefore
    obtain rfl := Option.some.inj (k.symm.trans htrap)
    refine .inr ⟨a0, n, locs, mags, j, h, (List.getElem?_eq_some_iff.1 hj).1, ?_, hmem⟩
    rw [Nat.zero_add]
    exact congrArg (State.trap · _) (sameButDmem_rsApply a0 n locs mags s 0)
  · exact .inl htrap

/-- Settles O13: the destinations are the only registers a shape writes. -/
theorem registerFrame : Obligations.RegisterFrame := by
  unfold Obligations.RegisterFrame
  exact fun i s t hexec => ⟨fun r => (exec_shape hexec).readX_eq, fun r => (exec_shape hexec).readV_eq⟩

/-- Settles O14: each effect stores to the addresses `storedTo` computes, and a trap to none. -/
theorem memoryFrame : Obligations.MemoryFrame := by
  unfold Obligations.MemoryFrame
  intro i s t hfield hcache hexec addr haddr
  obtain heffect | ⟨e, rfl⟩ := exec_effect i s t hexec
  · exact heffect.readDmem_eq hfield hcache haddr
  · rfl

/-- Settles O15: no shape touches what a program cannot reach, and only `HALT` and a trap leave RUN. -/
theorem programFrame : Obligations.ProgramFrame := by
  unfold Obligations.ProgramFrame
  intro i s t hrun hexec
  have hshape := exec_shape hexec
  obtain ⟨imem, entry, irq, cycle, queue, reply⟩ := hshape.program_frame
  refine ⟨fun a => by rw [State.readImem, imem, cycle, State.readImem], imem, entry, irq, cycle,
    queue, reply, ?_⟩
  obtain ⟨run, -, registers⟩ | ⟨h, rfl⟩ | ⟨fault, -⟩ := hshape.ending
  · exact ⟨.inl (run.trans hrun), fun _ => registers⟩
  · exact ⟨.inr (.inl ⟨h, rfl⟩), fun _ => ⟨rfl, rfl, rfl⟩⟩
  · exact ⟨.inr (.inr fault), fun hne => absurd fault hne⟩

/-- Settles O16: which shapes change the field registers, `VALID` and the tables, and which effects the
cache. -/
theorem fieldStateFrame : Obligations.FieldStateFrame := by
  unfold Obligations.FieldStateFrame
  intro i s t hexec
  have hshape := exec_shape hexec
  refine ⟨hshape.field_frame, fun hgfinit => ?_⟩
  obtain ⟨hexp, hlog⟩ := hshape.table_frame hgfinit
  refine ⟨hexp, hlog, ?_⟩
  obtain heffect | ⟨e, rfl⟩ := exec_effect i s t hexec
  · obtain ⟨cache, top⟩ | h | ⟨d, hi, hd, -, htop⟩ := heffect.cache
    · exact ⟨by rw [top], fun _ _ _ => ⟨top, cache⟩⟩
    · exact absurd h hgfinit
    · refine ⟨by rw [htop, warmCache_genTop s d hd]; exact le_max_left _ _, fun hgen hpgen henc => ?_⟩
      obtain ⟨a, h⟩ | ⟨r, a, h⟩ | ⟨a, b, c, h⟩ := hi
      · exact absurd h (hgen a)
      · exact absurd h (hpgen r a)
      · exact absurd h (henc a b c)
  · exact ⟨le_rfl, fun _ _ _ => ⟨rfl, rfl⟩⟩

end Sys2Proof.Machine
end

section
/-! PROOFS. What a step of the machine can do (40_sequencer_control.md R80, 20_memory.md R51), said
once: the sequencer's step and the host's. -/

namespace Sys2Proof.Machine

/-! ### Every instruction and every step has a next state (R237) -/

theorem exists_complete_eq (s : State) (r : Except Trap State) : ∃ t, complete s r = .next t := by
  cases r with
  | ok t => exact ⟨_, rfl⟩
  | error e => exact ⟨_, rfl⟩

theorem exists_completeFrom_eq (r : State × Option Trap) : ∃ t, completeFrom r = .next t := by
  obtain ⟨u, _ | e⟩ := r <;> exact ⟨_, rfl⟩

theorem exists_exec_eq (i : Instr) (s : State) : ∃ t, exec i s = .next t := by
  cases i with
  | nop | halt | jmp | beq | bne | bltu | li | mov | add | sub | addi | vlen | vmov => exact ⟨_, rfl⟩
  | rscorr d a b c =>
    rw [exec, execRscorr]
    split
    · exact ⟨_, rfl⟩
    · exact exists_completeFrom_eq _
  | rsdec d a b c =>
    rw [exec, execRsdec]
    split
    · exact ⟨_, rfl⟩
    · exact exists_completeFrom_eq _
  | _ => exact exists_complete_eq s _

theorem exists_sequencerStep_eq (s : State) : ∃ t, s.sequencerStep = .next t := by
  rw [State.sequencerStep]
  split
  · split
    · exact exists_exec_eq _ s
    · exact ⟨_, rfl⟩
  all_goals exact ⟨s, rfl⟩

theorem exists_step_eq (s : State) : ∃ t, step s = .next t := by
  rw [step, State.agentStep]
  split
  · exact exists_sequencerStep_eq s
  · exact exists_sequencerStep_eq _
  · exact ⟨_, rfl⟩

/-! ### The sequencer's step -/

theorem sequencerStep_of_not_running {s : State} (h : s.runState ≠ .run) :
    s.sequencerStep = .next s := by
  rw [State.sequencerStep]
  split
  · next hrun => exact absurd hrun h
  all_goals rfl

theorem sequencerStep_of_fetch_error {s : State} {e : Trap} (hrun : s.runState = .run)
    (h : s.fetch = .error e) : s.sequencerStep = .next (s.trap e) := by
  simp only [State.sequencerStep, hrun, h]

theorem sequencerStep_of_fetch_ok {s : State} {i : Instr} (hrun : s.runState = .run)
    (h : s.fetch = .ok i) : s.sequencerStep = exec i s := by
  simp only [State.sequencerStep, hrun, h]

theorem step_of_no_event {s : State} (h : s.hostQueue = []) : step s = s.sequencerStep := by
  rw [step, State.agentStep, h]

/-- What `fetch` answers: the decoded word, or one of its two traps (R80, R224). -/
theorem fetch_eq_ok_iff (s : State) (i : Instr) :
    s.fetch = .ok i ↔ s.pc.toNat < 1024 ∧ decode (s.readImem s.pc.toNat) = .ok i := by
  rw [State.fetch]
  split
  · next h => simp [raiseTrap, Nat.not_lt.2 h]
  · next h =>
    rw [and_iff_right (Nat.lt_of_not_le h)]
    cases decode (s.readImem s.pc.toNat) <;> simp

/-! ### The host's step (R47 to R49, R250) -/

/-- What an event of an outside agent can do to the engine. -/
inductive HostEffect (s : State) : HostEvent → State → Prop where
  /-- A read, or a refused write: only the reply changes. -/
  | reply {e : HostEvent} (r : HostReply) (h : e ≠ .hardReset) : HostEffect s e { s with hostReply := r }
  /-- The reset input. -/
  | hardReset : HostEffect s .hardReset s.hardReset
  /-- `SRESET`. -/
  | softReset (h : Word) (d : Word32) (ctrl : h.toNat = 0x8014) (bit : d.getLsbD 2 = true) :
      HostEffect s (.write h d) { s.softReset with hostReply := .done }
  /-- A write to DMEM. -/
  | dmem (h : Word) (d : Word32) (w : Word) (stopped : s.runState ≠ .run) (inside : h.toNat < 4096) :
      HostEffect s (.write h d) { s.writeDmem h.toNat w with hostReply := .done }
  /-- A write to IMEM. -/
  | imem (h : Word) (d : Word32) (a : Nat) (stopped : s.runState ≠ .run) (inside : a < 1024)
      (address : h.toNat = a + 0x1000) :
      HostEffect s (.write h d) { s.writeImem a d with hostReply := .done }
  /-- A write to a scalar register. -/
  | scalar (h : Word) (d : Word32) (r : XReg) (w : Word) (stopped : s.runState ≠ .run)
      (address : h.toNat < 0x8000) :
      HostEffect s (.write h d) { s.writeX r w with hostReply := .done }
  /-- A write to `CTRL` without `SRESET`. -/
  | ctrl (h : Word) (d : Word32) (stopped : s.runState ≠ .run) (address : h.toNat = 0x8014)
      (bit : d.getLsbD 2 = false) :
      HostEffect s (.write h d) { s.writeCtrl d with hostReply := .done }
  /-- A write to `ENTRY`. -/
  | entry (h : Word) (d : Word32) (w : Word) (stopped : s.runState ≠ .run)
      (address : h.toNat = 0x8015) :
      HostEffect s (.write h d) { s with entry := w, hostReply := .done }
  /-- A write to a field register. -/
  | fieldCsr (h : Word) (d : Word32) (t : State) (stopped : s.runState ≠ .run)
      (address : 0x8000 ≤ h.toNat ∧ h.toNat ≤ 0x8002)
      (k : t = { s with
        gfPrim := t.gfPrim, gfSize := t.gfSize, gfBase := t.gfBase, gfValid := false
        hostReply := .done }) : HostEffect s (.write h d) t

theorem hostEvent_effect (s : State) {e : HostEvent} (he : e ≠ .pass) :
    HostEffect s e (s.hostEvent e) := by
  cases e with
  | pass => exact absurd rfl he
  | read h => exact .reply _ HostEvent.noConfusion
  | hardReset => exact .hardReset
  | write h d =>
    rw [State.hostEvent]
    split
    · next t ht =>
      obtain ⟨hctrl, hbit, rfl⟩ | ⟨hctrl, stopped, hmap⟩ := (hostWrite_eq_some ..).1 ht
      · exact .softReset h d hctrl hbit
      obtain ⟨hlt, rfl⟩ | ⟨hge, hlt, rfl⟩ | ⟨hge, hlt, rfl⟩ | ⟨hge, hcsr⟩ :=
        (writeMap_eq_some ..).1 hmap
      · exact .dmem h d _ stopped hlt
      · exact .imem h d _ stopped (by omega) (by omega)
      · exact .scalar h d _ _ stopped (by omega)
      obtain ⟨hn, rfl⟩ | ⟨hn, rfl⟩ | ⟨-, -, hfield⟩ := (hostWriteCsr_eq_some ..).1 hcsr
      · have haddress : h.toNat = 0x8014 := by omega
        exact .ctrl h d stopped haddress (Bool.eq_false_iff.2 fun hb => hctrl ⟨haddress, hb⟩)
      · exact .entry h d _ stopped (by omega)
      · obtain ⟨hn, rfl⟩ | ⟨hn, rfl⟩ | ⟨hn, rfl⟩ := (writeFieldCsr_eq_some ..).1 hfield
        all_goals exact .fieldCsr h d _ stopped (by omega) rfl
    · exact .reply _ HostEvent.noConfusion

/-! ### The step -/

/-- Everything a step can be: an event of an outside agent, a pause of a stopped sequencer, a trap at
fetch, or the fetched instruction. -/
inductive StepCase (s : State) : State → Prop where
  | host (e : HostEvent) (rest : List HostEvent) (t : State) (queue : s.hostQueue = e :: rest)
      (h : HostEffect { s with hostQueue := rest } e t) : StepCase s t
  | pause (q : List HostEvent) (stopped : s.runState ≠ .run) : StepCase s { s with hostQueue := q }
  | fetchTrap (q : List HostEvent) (e : Trap) (running : s.runState = .run)
      (h : s.fetch = .error e) : StepCase s (State.trap { s with hostQueue := q } e)
  | runs (q : List HostEvent) (i : Instr) (t : State) (running : s.runState = .run)
      (fetched : s.fetch = .ok i) (h : exec i { s with hostQueue := q } = .next t) : StepCase s t

theorem sequencerStep_case {s t : State} (q : List HostEvent)
    (h : State.sequencerStep { s with hostQueue := q } = .next t) : StepCase s t := by
  by_cases hrun : s.runState = .run
  · cases hfetch : s.fetch with
    | ok i =>
      rw [sequencerStep_of_fetch_ok (s := { s with hostQueue := q }) hrun hfetch] at h
      exact .runs q i t hrun hfetch h
    | error e =>
      rw [sequencerStep_of_fetch_error (s := { s with hostQueue := q }) hrun hfetch] at h
      cases h
      exact .fetchTrap q e hrun hfetch
  · rw [sequencerStep_of_not_running (s := { s with hostQueue := q }) hrun] at h
    cases h
    exact .pause q hrun

theorem step_case {s t : State} (h : step s = .next t) : StepCase s t := by
  rw [step, State.agentStep] at h
  split at h
  · next hq => exact sequencerStep_case s.hostQueue h
  · next rest hq => exact sequencerStep_case rest h
  · next e rest hne hq =>
    cases h
    exact .host e rest _ hq (hostEvent_effect _ hne)

/-! ### The statements -/

/-- Settles O6: fetch answers the decoded instruction, which the sequencer's step runs. -/
theorem stepRunsDecodedInstruction : Obligations.StepRunsDecodedInstruction := by
  unfold Obligations.StepRunsDecodedInstruction
  intro s i hrun hqueue hpc hdecode
  rw [step_of_no_event hqueue, sequencerStep_of_fetch_ok hrun ((fetch_eq_ok_iff s i).2 ⟨hpc, hdecode⟩)]

/-- Settles O7: the ends of the sequencer's step are those of a trap at fetch and those of the fetched
instruction. -/
theorem stepIsTotal : Obligations.StepIsTotal := by
  unfold Obligations.StepIsTotal
  refine ⟨exists_step_eq, fun s t hrun hqueue h => ?_, fun s hstopped hqueue => ?_,
    fun s hrun hqueue hpc => ?_⟩
  · rw [step_of_no_event hqueue] at h
    cases hfetch : s.fetch with
    | ok i =>
      rw [sequencerStep_of_fetch_ok hrun hfetch] at h
      refine ((exec_shape h).cases_of_running hrun).imp_left fun ⟨run, pc⟩ => ⟨run, ?_⟩
      exact pc.imp_right fun htarget => ⟨i, ((fetch_eq_ok_iff s i).1 hfetch).2, htarget⟩
    | error e =>
      rw [sequencerStep_of_fetch_error hrun hfetch] at h
      cases h
      exact .inr (.inr ⟨rfl, rfl, rfl, e.cause, rfl⟩)
  · rw [step_of_no_event hqueue, sequencerStep_of_not_running hstopped]
  · have hfetch : s.fetch = .error ⟨.imemBounds, s.pc.setWidth 32⟩ := by
      rw [State.fetch, if_pos hpc, raiseTrap, BitVec.ofNat_toNat]
    rw [step_of_no_event hqueue, sequencerStep_of_fetch_error hrun hfetch]
    rfl

end Sys2Proof.Machine
end

section
/-! PROOFS. Which field parameters `GFINIT` accepts (41_gf_scalar.md R116), and how the generator cache
grows (43_rs_encoder.md R171). -/

namespace Sys2Proof.Machine

/-! ### The checks of `GFINIT` (R116) -/

theorem legalSize_iff (N : Nat) : legalSize N = true ↔ ∃ m, 1 ≤ m ∧ m ≤ 12 ∧ N = 2 ^ m := by
  simp only [legalSize, List.any_eq_true, List.mem_range, beq_iff_eq]
  constructor
  · rintro ⟨k, hk, hN⟩
    exact ⟨k + 1, Nat.succ_pos k, hk, hN⟩
  · rintro ⟨m, hm, hm', hN⟩
    refine ⟨m - 1, Nat.lt_of_lt_of_le (Nat.sub_one_lt (by omega)) hm', ?_⟩
    rw [Nat.sub_add_cancel hm, hN]

theorem fullOrder_iff {P N : Nat} (hN : 2 ≤ N) :
    fullOrder P N = true ↔ (expList P N)[N - 1]? = some 1 ∧
      ∀ i, 1 ≤ i → i ≤ N - 2 → (expList P N)[i]? ≠ some 1 := by
  have hlast : (expList P N).getD (N - 1) 0 = 1 ↔ (expList P N)[N - 1]? = some 1 := by
    rw [List.getD_eq_getElem?_getD, getElem?_expList P N (by omega), Option.getD_some,
      Option.some_inj]
  have hmiddle : (∀ t ∈ ((expList P N).take (N - 1)).drop 1, t ≠ 1) ↔
      ∀ i, 1 ≤ i → i ≤ N - 2 → (expList P N)[i]? ≠ some 1 := by
    constructor
    · intro h i hi hiN hone
      refine h 1 (List.mem_iff_getElem?.2 ⟨i - 1, ?_⟩) rfl
      rw [List.getElem?_drop, List.getElem?_take, Nat.add_sub_cancel' hi, if_pos (by omega), hone]
    · rintro h t ht rfl
      obtain ⟨j, hj⟩ := List.mem_iff_getElem?.1 ht
      rw [List.getElem?_drop, List.getElem?_take] at hj
      split at hj
      · exact h (1 + j) (by omega) (by omega) hj
      · cases hj
  rw [fullOrder, Bool.and_eq_true, beq_iff_eq, hlast, List.all_eq_true, ← hmiddle]
  simp only [bne_iff_ne]

theorem legalField_iff (P N : Nat) :
    LegalField P N ↔ legalSize N = true ∧ N ≤ P ∧ P < 2 * N ∧ fullOrder P N = true := by
  rw [LegalField, ← legalSize_iff]
  refine and_congr_right fun hsize => and_congr_right fun _ => and_congr_right fun _ => ?_
  obtain ⟨m, hm, -, rfl⟩ := (legalSize_iff N).1 hsize
  exact (fullOrder_iff (Nat.le_self_pow (by omega) 2)).symm

theorem gfConfigCheck_eq_ok (P N : Nat) : gfConfigCheck P N = .ok () ↔ LegalField P N := by
  rw [legalField_iff, gfConfigCheck]
  split
  · next h => simp [h]
  · next h =>
    rw [Bool.not_eq_false] at h
    split
    · next hP =>
      refine iff_of_false (raiseTrap_ne_ok _ _ _) ?_
      omega
    · next hP =>
      split
      · next hfull => simp [hfull]
      · next hfull => simp_all

theorem gfConfigCheck_of_not_legalSize {P N : Nat} (h : ¬∃ m, 1 ≤ m ∧ m ≤ 12 ∧ N = 2 ^ m) :
    gfConfigCheck P N = .error ⟨.gfConfig, 1⟩ :=
  if_pos (Bool.eq_false_iff.2 (mt (legalSize_iff N).1 h))

theorem gfConfigCheck_of_not_degree {P N : Nat} (h : ∃ m, 1 ≤ m ∧ m ≤ 12 ∧ N = 2 ^ m)
    (hP : P < N ∨ 2 * N ≤ P) : gfConfigCheck P N = .error ⟨.gfConfig, 2⟩ := by
  rw [gfConfigCheck, (legalSize_iff N).2 h, if_neg Bool.noConfusion, if_pos hP]
  rfl

theorem gfConfigCheck_of_not_order {P N : Nat} (h : ∃ m, 1 ≤ m ∧ m ≤ 12 ∧ N = 2 ^ m) (hP : N ≤ P)
    (hP' : P < 2 * N) (hlegal : ¬LegalField P N) :
    gfConfigCheck P N = .error ⟨.gfConfig, 3⟩ := by
  have hsize := (legalSize_iff N).2 h
  have horder : fullOrder P N = false :=
    Bool.eq_false_iff.2 fun horder => hlegal ((legalField_iff P N).2 ⟨hsize, hP, hP', horder⟩)
  rw [gfConfigCheck, hsize, if_neg Bool.noConfusion, if_neg (by omega), if_pos horder]
  rfl

/-! ### The generator cache grows (R171) -/

section
variable {s : State}

theorem State.CacheBuilt.cached_warmCache (h : s.CacheBuilt) (valid : s.gfValid = true) {d e : Nat}
    (he : e ≤ max s.genTop.toNat d) : (s.warmCache d).cached e = rsGenerator s.gf e := by
  obtain ⟨hlen, -, hentries⟩ := h
  unfold State.warmCache
  split
  · next hlt =>
    rw [State.cached, hentries valid _ le_rfl, List.getD_eq_getElem?_getD]
    obtain hle | hgt := le_or_gt e s.genTop.toNat
    · rw [List.getElem?_append_left (by omega), ← List.getD_eq_getElem?_getD]
      exact hentries valid e hle
    · rw [List.getElem?_append_right (by omega), hlen, getElem?_genExtend (by omega),
        Option.getD_some]
      congr 1
      omega
  · next hge => exact hentries valid e (by omega)

theorem length_genCache_warmCache (h : s.genCache.length = s.genTop.toNat + 1) {d : Nat}
    (hd : d < 4096) : (s.warmCache d).genCache.length = (s.warmCache d).genTop.toNat + 1 := by
  rw [warmCache_genTop s d hd, State.warmCache]
  split
  · next hlt => rw [List.length_append, genExtend_length, h]; omega
  · next hge => rw [h]; omega

theorem State.CacheBuilt.warmCache (h : s.CacheBuilt) (valid : s.gfValid = true) {d : Nat}
    (hd : d < 4096) : (s.warmCache d).CacheBuilt := by
  refine ⟨length_genCache_warmCache h.1 hd, h.cached_warmCache valid (Nat.zero_le _), ?_⟩
  intro _ e he
  rw [warmCache_genTop s d hd] at he
  rw [h.cached_warmCache valid he, warmCache_eq]
  rfl

/-- The invariant of the cache speaks of the cache and the field alone. -/
theorem State.CacheBuilt.congr {t : State} (h : s.CacheBuilt) (hcache : t.genCache = s.genCache)
    (htop : t.genTop = s.genTop)
    (hfield : t.gfValid = true → s.gfValid = true ∧ t.gf = s.gf) : t.CacheBuilt := by
  obtain ⟨hlen, hzero, hentries⟩ := h
  refine ⟨by rw [hcache, htop, hlen], by rw [State.cached, hcache]; exact hzero, ?_⟩
  intro valid d hd
  obtain ⟨valid', hgf⟩ := hfield valid
  rw [State.cached, hcache, hgf]
  exact hentries valid' d (htop ▸ hd)

end

/-- A state with the reset state's cache. -/
theorem cacheBuilt_of_empty {t : State} (hcache : t.genCache = [[1]]) (htop : t.genTop = 0) :
    t.CacheBuilt := by
  refine ⟨by rw [hcache, htop]; rfl, by rw [State.cached, hcache]; rfl, fun _ d hd => ?_⟩
  obtain rfl : d = 0 := by rw [htop] at hd; exact Nat.le_zero.1 hd
  rw [State.cached, hcache]
  rfl

end Sys2Proof.Machine
end

section
/-! PROOFS. The invariants of every step (10_state.md R14 to R29, 20_memory.md R40). -/

namespace Sys2Proof.Machine

/-! ### A write to `CTRL` without `SRESET` (R25, R226) -/

theorem writeCtrl_eq {s : State} (stopped : s.runState ≠ .run) {d : Word32}
    (hreset : d.getLsbD 2 = false) :
    s.writeCtrl d = { s with
      irqEnable := d.getLsbD 8
      runState := runStateAfterCtrl s.runState d
      pc := if runStateAfterCtrl s.runState d = .run then s.entry else s.pc
      cause := if d.getLsbD 1 = true ∧ s.runState ≠ .idle then 0 else s.cause
      epc := if d.getLsbD 1 = true ∧ s.runState ≠ .idle then 0 else s.epc
      einfo := if d.getLsbD 1 = true ∧ s.runState ≠ .idle then 0 else s.einfo } := by
  cases hstart : d.getLsbD 0 <;> cases hclear : d.getLsbD 1 <;> cases hrun : s.runState
  case false.false.run | false.true.run | true.false.run | true.true.run => exact absurd hrun stopped
  all_goals simp [State.writeCtrl, runStateAfterCtrl, start_eq, clear_eq, hstart, hclear, hrun, hreset,
    -BitVec.getLsbD_eq_getElem]

/-! ### Memory stays canonical (R40) -/

theorem HostEffect.memoryCanonical {s t : State} {e : HostEvent} (h : HostEffect s e t)
    (hs : s.MemoryCanonical) : t.MemoryCanonical := by
  cases h with
  | hardReset => exact ⟨rfl, rfl⟩
  | dmem h d w _ inside => exact ⟨hs.1, Memory.wf_write _ _ _ _ inside hs.2⟩
  | imem h d a _ inside => exact ⟨Memory.wf_write _ _ _ _ inside hs.1, hs.2⟩
  | ctrl h d stopped _ bit =>
    rw [writeCtrl_eq stopped bit]
    exact hs
  | fieldCsr h d t _ _ k =>
    rw [k]
    exact hs
  | reply | softReset | scalar | entry => exact hs

theorem Effect.dmem_wf {i : Instr} {s t : State} (h : Effect i s t) (hs : Memory.wf 4096 s.dmem = true)
    (hfield : s.FieldBuilt) (hcache : s.CacheBuilt) : Memory.wf 4096 t.dmem = true := by
  cases h with
  | nothing | halt | transfer | scalar | vector | vectors | buildField => exact hs
  | fieldCsr a n u h k =>
    obtain ⟨-, rfl⟩ | ⟨-, rfl⟩ | ⟨-, rfl⟩ := (writeFieldCsr_eq_some ..).1 k <;> exact hs
  | store d a offset _ k => exact Memory.wf_write _ _ _ _ k hs
  | storeRun d a _ k => exact wf_writeRun _ _ _ _ k hs
  | warm a =>
    rw [warmCache_eq]
    exact hs
  | generator d a =>
    rw [warmCache_eq]
    exact hs
  | encode a b c check _ valid n1 ec1 fits symbols k =>
    have hlen := length_check hfield hcache valid (readRun_ne_nil n1) symbols ec1 k
    refine wf_writeRun _ _ _ _ (by omega) ?_
    rw [warmCache_eq]
    exact hs
  | corrected a0 n locs mags _ n1 fits _ _ count =>
    have hwf := wf_rsApply 4096 a0 n (Nat.pos_of_ne_zero n1) fits locs mags s 0 hs
    obtain rfl | ⟨d, w, -, rfl⟩ := count <;> exact hwf
  | partlyCorrected a0 n locs mags e _ n1 fits =>
    exact wf_rsApply 4096 a0 n (Nat.pos_of_ne_zero n1) fits locs mags s 0 hs

/-- Settles O54: no store leaves DMEM, and the host's writes go to the map's addresses. -/
theorem memoryStaysCanonical : Obligations.MemoryStaysCanonical := by
  unfold Obligations.MemoryStaysCanonical
  intro s t hs hfield hcache h
  cases step_case h with
  | host e rest t _ h => exact h.memoryCanonical hs
  | pause | fetchTrap => exact hs
  | runs q i t _ _ h =>
    refine ⟨by rw [(exec_shape h).program_frame.1]; exact hs.1, ?_⟩
    obtain heffect | ⟨e, rfl⟩ := exec_effect i _ t h
    · exact heffect.dmem_wf hs.2 hfield hcache
    · exact hs.2

/-! ### The trap registers (R22 to R24, R227) -/

theorem trapRegistersMatch_zero {t : State} (run : t.runState ≠ .faulted) (hcause : t.cause = 0)
    (hepc : t.epc = 0) (heinfo : t.einfo = 0) : t.TrapRegistersMatch :=
  ⟨fun hfault => absurd hfault run, fun _ => ⟨hcause, hepc, heinfo⟩⟩

theorem runStateAfterCtrl_eq_faulted_iff (r : RunState) (d : Word32) :
    runStateAfterCtrl r d = .faulted ↔
      r = .faulted ∧ d.getLsbD 1 = false ∧ d.getLsbD 2 = false := by
  unfold runStateAfterCtrl
  generalize d.getLsbD 0 = start
  generalize d.getLsbD 1 = clear
  generalize d.getLsbD 2 = reset
  cases r <;> revert start clear reset <;> decide

theorem trapRegistersMatch_writeCtrl {s : State} (hs : s.TrapRegistersMatch)
    (stopped : s.runState ≠ .run) {d : Word32} (hreset : d.getLsbD 2 = false) :
    (s.writeCtrl d).TrapRegistersMatch := by
  obtain ⟨hfault, hzero⟩ := hs
  rw [writeCtrl_eq stopped hreset]
  refine ⟨fun (fault : runStateAfterCtrl s.runState d = .faulted) => ?_, fun fault => ?_⟩
  · obtain ⟨hrun, hclear, -⟩ := (runStateAfterCtrl_eq_faulted_iff _ d).1 fault
    simpa only [hclear, fault, reduceCtorEq, Bool.false_eq_true, false_and, if_false]
      using hfault hrun
  · by_cases hrun : s.runState = .faulted
    · have hclear : d.getLsbD 1 = true := by
        rw [← Bool.not_eq_false]
        exact fun hclear => fault ((runStateAfterCtrl_eq_faulted_iff _ d).2 ⟨hrun, hclear, hreset⟩)
      simp only [hclear, hrun, reduceCtorEq, ne_eq, not_false_eq_true, and_self, if_true]
    · obtain ⟨hcause, hepc, heinfo⟩ := hzero hrun
      simp only [hcause, hepc, heinfo, ite_self, and_self]

theorem HostEffect.trapRegistersMatch {s t : State} {e : HostEvent} (h : HostEffect s e t)
    (hs : s.TrapRegistersMatch) : t.TrapRegistersMatch := by
  cases h with
  | hardReset | softReset => exact trapRegistersMatch_zero RunState.noConfusion rfl rfl rfl
  | ctrl h d stopped _ bit => exact trapRegistersMatch_writeCtrl hs stopped bit
  | fieldCsr h d t _ _ k =>
    rw [k]
    exact hs
  | reply | dmem | imem | scalar | entry => exact hs

/-- Settles O55: a trap writes all three registers, `CLEAR` and a reset zero them, and nothing else
reaches them. -/
theorem trapRegistersKept : Obligations.TrapRegistersKept := by
  unfold Obligations.TrapRegistersKept
  intro s t hs h
  cases step_case h with
  | host e rest t _ h => exact h.trapRegistersMatch hs
  | pause => exact hs
  | fetchTrap q e => exact ⟨fun _ => ⟨⟨e.cause, rfl⟩, rfl⟩, fun hne => absurd rfl hne⟩
  | runs q i t running _ h =>
    obtain ⟨hcause, hepc, heinfo⟩ := hs.2 (by simp [running])
    obtain ⟨run, -, hcause', hepc', heinfo'⟩ | ⟨-, rfl⟩ | ⟨fault, pc, epc, c, hc⟩ :=
      (exec_shape h).ending
    · exact trapRegistersMatch_zero (by simp [run, running]) (hcause'.trans hcause)
        (hepc'.trans hepc) (heinfo'.trans heinfo)
    · exact trapRegistersMatch_zero (by simp) hcause hepc heinfo
    · exact ⟨fun _ => ⟨⟨c, hc⟩, epc.trans pc.symm⟩, fun hne => absurd fault hne⟩

/-! ### The field and the cache (R19, R28, R29) -/

section
variable {s t : State}

theorem State.FieldBuilt.congr (h : s.FieldBuilt)
    (hfield : t.gfValid = true → s.gfValid = true ∧ t.gfPrim = s.gfPrim ∧ t.gf = s.gf) :
    t.FieldBuilt := by
  intro valid
  obtain ⟨valid', hprim, hgf⟩ := hfield valid
  have hsize : t.gfSize.toNat = s.gfSize.toNat := congrArg GF.size hgf
  have hbase : t.gfBase.toNat = s.gfBase.toNat := congrArg GF.base hgf
  rw [hprim, hsize, hbase, hgf]
  exact h valid'

theorem HostEffect.fieldAndCache {e : HostEvent} (h : HostEffect s e t) (hfield : s.FieldBuilt)
    (hcache : s.CacheBuilt) : t.FieldBuilt ∧ t.CacheBuilt := by
  cases h with
  | hardReset | softReset => exact ⟨fun hv => absurd hv Bool.noConfusion, cacheBuilt_of_empty rfl rfl⟩
  | ctrl h d stopped _ bit =>
    rw [writeCtrl_eq stopped bit]
    exact ⟨hfield, hcache⟩
  | fieldCsr h d t _ _ k =>
    have invalid : t.gfValid = false := by rw [k]
    refine ⟨fun hv => absurd hv (by simp [invalid]), hcache.congr ?_ ?_ fun hv => ?_⟩
    · rw [k]
    · rw [k]
    · exact absurd hv (by simp [invalid])
  | reply | dmem | imem | scalar | entry => exact ⟨hfield, hcache⟩

theorem fieldBuilt_buildField (h : LegalField s.gfPrim.toNat s.gfSize.toNat) :
    s.buildField.FieldBuilt := fun _ => ⟨h, rfl⟩

theorem fieldBuilt_warmCache (h : s.FieldBuilt) (d : Nat) : (s.warmCache d).FieldBuilt := by
  rw [warmCache_eq]
  exact h

theorem Effect.fieldAndCache {i : Instr} (h : Effect i s t) (hfield : s.FieldBuilt)
    (hcache : s.CacheBuilt) : t.FieldBuilt ∧ t.CacheBuilt := by
  cases h with
  | nothing | halt | transfer | scalar | vector | vectors | store => exact ⟨hfield, hcache⟩
  | storeRun d a =>
    obtain ⟨m, hm⟩ := exists_writeRun_eq s (s.readX a).toNat (s.readV d)
    rw [hm]
    exact ⟨hfield, hcache⟩
  | fieldCsr a n u _ k =>
    have hcleared : u.gfValid = false ∧ u.genCache = s.genCache ∧ u.genTop = s.genTop := by
      obtain ⟨-, rfl⟩ | ⟨-, rfl⟩ | ⟨-, rfl⟩ := (writeFieldCsr_eq_some ..).1 k <;> exact ⟨rfl, rfl, rfl⟩
    obtain ⟨invalid, hgens, htop⟩ := hcleared
    have never : ¬u.advance.gfValid = true := by simp [invalid]
    exact ⟨fun hv => absurd hv never, hcache.congr hgens htop fun hv => absurd hv never⟩
  | buildField _ k =>
    exact ⟨fieldBuilt_buildField ((gfConfigCheck_eq_ok ..).1 k), cacheBuilt_of_empty rfl rfl⟩
  | warm a _ valid k => exact ⟨fieldBuilt_warmCache hfield _, hcache.warmCache valid k⟩
  | generator d a _ valid k => exact ⟨fieldBuilt_warmCache hfield _, hcache.warmCache valid k⟩
  | encode a b c check _ valid n1 _ fits =>
    obtain ⟨m, hm⟩ := exists_writeRun_eq (s.warmCache (s.readX c).toNat)
      ((s.readX a).toNat + (s.readX b).toNat) check
    rw [hm]
    exact ⟨fieldBuilt_warmCache hfield _, hcache.warmCache valid (by omega)⟩
  | corrected a0 n locs mags _ _ _ _ _ count =>
    obtain ⟨m, hm⟩ := exists_rsApply_eq s a0 n 0 locs mags
    rw [hm] at count
    obtain rfl | ⟨d, w, -, rfl⟩ := count <;> exact ⟨hfield, hcache⟩
  | partlyCorrected a0 n locs mags =>
    obtain ⟨m, hm⟩ := exists_rsApply_eq s a0 n 0 locs mags
    rw [hm]
    exact ⟨hfield, hcache⟩

end

/-- Settles O56: a write to a field register clears `VALID`, `GFINIT` builds tables and cache from the
registers, and the cache grows by the recurrence of the generator polynomials. -/
theorem fieldAndCacheKept : Obligations.FieldAndCacheKept := by
  unfold Obligations.FieldAndCacheKept
  intro s t hfield hcache h
  cases step_case h with
  | host e rest t _ h => exact h.fieldAndCache hfield hcache
  | pause | fetchTrap => exact ⟨hfield, hcache⟩
  | runs q i t _ _ h =>
    obtain heffect | ⟨e, rfl⟩ := exec_effect i _ t h
    · exact heffect.fieldAndCache hfield hcache
    · exact ⟨hfield, hcache⟩

/-! ### `VALID` (R19) -/

theorem HostEffect.gfValid {s t : State} {e : HostEvent} (h : HostEffect s e t) :
    t.gfValid = s.gfValid ∨ t.gfValid = false ∧ (e = .hardReset ∨ ∃ h d, e = .write h d ∧
      ((0x8000 ≤ h.toNat ∧ h.toNat ≤ 0x8002) ∨ (h = 0x8014 ∧ d.getLsbD 2 = true))) := by
  cases h with
  | hardReset => exact .inr ⟨rfl, .inl rfl⟩
  | softReset h d ctrl bit =>
    exact .inr ⟨rfl, .inr ⟨h, d, rfl, .inr ⟨BitVec.eq_of_toNat_eq ctrl, bit⟩⟩⟩
  | ctrl h d stopped _ bit =>
    rw [writeCtrl_eq stopped bit]
    exact .inl rfl
  | fieldCsr h d t _ address k => exact .inr ⟨by rw [k], .inr ⟨h, d, rfl, .inl address⟩⟩
  | reply | dmem | imem | scalar | entry => exact .inl rfl

theorem Effect.gfValid {i : Instr} {s t : State} (h : Effect i s t) :
    t.gfValid = s.gfValid ∨ (t.gfValid = true ∧ i = .gfinit) ∨
      (t.gfValid = false ∧ ∃ a n, i = .csrw a n ∧ n.toNat < 3) := by
  cases h with
  | nothing | halt | transfer | scalar | vector | vectors | store => exact .inl rfl
  | storeRun d a =>
    obtain ⟨m, hm⟩ := exists_writeRun_eq s (s.readX a).toNat (s.readV d)
    exact .inl (by rw [hm]; rfl)
  | fieldCsr a n u h k =>
    have hn : n.toNat < 3 := Nat.lt_of_not_le fun hle => by
      rw [(writeFieldCsr_eq_none ..).2 hle] at k
      cases k
    obtain ⟨-, rfl⟩ | ⟨-, rfl⟩ | ⟨-, rfl⟩ := (writeFieldCsr_eq_some ..).1 k
    all_goals exact .inr (.inr ⟨rfl, a, n, h, hn⟩)
  | buildField h => exact .inr (.inl ⟨rfl, h⟩)
  | warm a => exact .inl (by rw [warmCache_eq]; rfl)
  | generator d a => exact .inl (by rw [warmCache_eq]; rfl)
  | encode a b c check =>
    exact .inl (writeRun_warmCache_gfValid s (s.readX c).toNat _ check)
  | corrected a0 n locs mags _ _ _ _ _ count =>
    obtain ⟨m, hm⟩ := exists_rsApply_eq s a0 n 0 locs mags
    rw [hm] at count
    obtain rfl | ⟨d, w, -, rfl⟩ := count <;> exact .inl rfl
  | partlyCorrected a0 n locs mags =>
    obtain ⟨m, hm⟩ := exists_rsApply_eq s a0 n 0 locs mags
    exact .inl (by rw [hm]; rfl)

/-- Settles O53: of the sequencer's steps only `GFINIT` and a `CSRW` to a field register change
`VALID`, of the host's only a reset and a write to a field register. -/
theorem validChanges : Obligations.ValidChanges := by
  unfold Obligations.ValidChanges
  intro s t h
  have unchanged : t.gfValid = s.gfValid →
      ¬(s.gfValid = false ∧ t.gfValid = true) ∧ ¬(s.gfValid = true ∧ t.gfValid = false) := by
    intro heq
    simp [heq]
  cases step_case h with
  | pause | fetchTrap =>
    exact ⟨fun hs ht => absurd ⟨hs, ht⟩ (unchanged rfl).1, fun hs ht => absurd ⟨hs, ht⟩ (unchanged rfl).2⟩
  | host e rest t queue h =>
    obtain hkept | ⟨hcleared, hevent⟩ := h.gfValid
    · exact ⟨fun hs ht => absurd ⟨hs, ht⟩ (unchanged hkept).1,
        fun hs ht => absurd ⟨hs, ht⟩ (unchanged hkept).2⟩
    · refine ⟨fun _ ht => absurd (hcleared.symm.trans ht) Bool.noConfusion, fun _ _ => ?_⟩
      obtain rfl | ⟨a, d, rfl, hwrite⟩ := hevent
      · exact .inr (.inl ⟨rest, queue⟩)
      · exact .inr (.inr ⟨a, d, rest, queue, hwrite⟩)
  | runs q i t running fetched h =>
    have hcases : t.gfValid = s.gfValid ∨ (t.gfValid = true ∧ i = .gfinit) ∨
        (t.gfValid = false ∧ ∃ a n, i = .csrw a n ∧ n.toNat < 3) := by
      obtain heffect | ⟨e, rfl⟩ := exec_effect i _ t h
      · exact heffect.gfValid
      · exact .inl rfl
    obtain hkept | ⟨hset, rfl⟩ | ⟨hcleared, a, n, rfl, hn⟩ := hcases
    · exact ⟨fun hs ht => absurd ⟨hs, ht⟩ (unchanged hkept).1,
        fun hs ht => absurd ⟨hs, ht⟩ (unchanged hkept).2⟩
    · exact ⟨fun _ _ => ⟨running, fetched⟩, fun _ ht => absurd (ht.symm.trans hset) Bool.noConfusion⟩
    · exact ⟨fun _ ht => absurd (hcleared.symm.trans ht) Bool.noConfusion,
        fun _ _ => .inl ⟨running, a, n, fetched, hn⟩⟩

/-! ### Reset (R33) -/

/-- Settles O58: memories, vectors, trap registers and cache are empty, and `VALID` is 0. -/
theorem resetSatisfiesInvariants : Obligations.ResetSatisfiesInvariants := by
  unfold Obligations.ResetSatisfiesInvariants
  refine ⟨⟨rfl, rfl⟩, fun r => ?_, trapRegistersMatch_zero RunState.noConfusion rfl rfl rfl,
    fun hv => absurd hv Bool.noConfusion, cacheBuilt_of_empty rfl rfl⟩
  rw [State.reset_engineReset.readV]
  exact Nat.zero_le _

end Sys2Proof.Machine
end

section
/-! PROOFS. The shared checks of the instructions in equational form: what each answers where it passes,
and the trap where it does not (41_gf_scalar.md R110, R111, 42_gf_poly.md R139, 20_memory.md R43). -/

namespace Sys2Proof.Machine

section
variable {s : State}

theorem requireGf_of_valid (h : s.gfValid = true) : requireGf s = .ok () := (requireGf_eq_ok s).2 h

theorem requireSym_of_lt {w : Word} (h : w.toNat < s.gfSize.toNat) : requireSym s w = .ok () :=
  (requireSym_eq_ok s w).2 h

theorem requireSym_of_le {w : Word} (h : s.gfSize.toNat ≤ w.toNat) :
    requireSym s w = .error ⟨.operandRange, w.setWidth 32⟩ :=
  (requireSym_eq_error s w _).2 ⟨h, by rw [BitVec.ofNat_toNat]⟩

theorem requireSyms_of_forall {l : List Word} (h : ∀ w ∈ l, w.toNat < s.gfSize.toNat) :
    requireSyms s l = .ok () := (requireSyms_eq_ok s l).2 h

theorem requireSyms_of_firstOutside {l : List Word} {w : Word}
    (h : FirstOutside s.gfSize.toNat l w) :
    requireSyms s l = .error ⟨.operandRange, w.setWidth 32⟩ := by
  obtain ⟨before, after, hl, hbefore, hw⟩ := h
  exact (requireSyms_eq_error s l _).2
    ⟨before, w, after, hl, hbefore, hw, by rw [BitVec.ofNat_toNat]⟩

theorem readPoly_of_holdsPoly {r : VReg} (h : s.HoldsPoly r) :
    readPoly s r = .ok (norm (s.readV r)) := (readPoly_eq_ok s r _).2 ⟨h.1, h.2, rfl⟩

theorem readPoly_of_empty {r : VReg} (h : s.readV r = []) :
    readPoly s r = .error ⟨.polyEmpty, BitVec.ofNat 32 r.val⟩ :=
  (readPoly_eq_error s r _).2 (.inl ⟨h, rfl⟩)

theorem readPoly_of_firstOutside {r : VReg} {w : Word}
    (h : FirstOutside s.gfSize.toNat (s.readV r) w) :
    readPoly s r = .error ⟨.operandRange, w.setWidth 32⟩ := by
  refine (readPoly_eq_error s r _).2 (.inr ⟨?_, requireSyms_of_firstOutside h⟩)
  obtain ⟨before, after, hl, -⟩ := h
  rw [hl]
  exact List.append_ne_nil_of_right_ne_nil _ (List.cons_ne_nil _ _)

end

theorem requireWord_of_lt {a : Nat} (h : a < 4096) : requireWord a = .ok () :=
  (requireWord_eq_ok a).2 h

theorem requireWord_of_le {a : Nat} (h : 4096 ≤ a) :
    requireWord a = .error ⟨.dmemBounds, BitVec.ofNat 32 a⟩ := (requireWord_eq_error a _).2 ⟨h, rfl⟩

theorem requireRun_of_le {a n : Nat} (h : a + n ≤ 4096) : requireRun a n = .ok () :=
  (requireRun_eq_ok a n).2 h

theorem requireRun_of_lt {a n : Nat} (h : 4096 < a + n) :
    requireRun a n = .error ⟨.dmemBounds, BitVec.ofNat 32 (max a 4096)⟩ :=
  (requireRun_eq_error a n _).2 ⟨h, rfl⟩

theorem requireLength_of_le {n : Nat} (h : n ≤ 4096) : requireLength n = .ok () :=
  (requireLength_eq_ok n).2 h

theorem requireLength_of_lt {n : Nat} (h : 4096 < n) :
    requireLength n = .error ⟨.vecOverflow, BitVec.ofNat 32 n⟩ :=
  (requireLength_eq_error n _).2 ⟨h, rfl⟩

end Sys2Proof.Machine
end

section
/-! PROOFS. The sequencer, integer, memory and CSR instructions (40_sequencer_control.md R81 to R96). -/

namespace Sys2Proof.Machine

/-- Settles O17: each is one equation of its meaning. -/
theorem integerResults : Obligations.IntegerResults := by
  unfold Obligations.IntegerResults
  intro s d a b imm
  exact ⟨rfl, rfl, rfl, rfl, rfl, rfl⟩

/-! ### Control transfers (R82, R88 to R91) -/

theorem branch_condNe (s : State) (p q target : Word) :
    s.branch (condNe p q) target = { s with pc := if p = q then s.pc + 1 else target } := by
  rw [branch_eq]
  by_cases h : p = q <;> simp [condNe, h]

/-- Settles O19: a branch goes to its target exactly when its condition holds. -/
theorem controlTransferResults : Obligations.ControlTransferResults := by
  unfold Obligations.ControlTransferResults
  intro s d a target
  refine ⟨rfl, rfl, ?_, ?_, ?_⟩
  · rw [exec, execBeq, branch_eq]
    simp only [condEq, beq_iff_eq]
  · rw [exec, execBne, branch_condNe]
  · rw [exec, execBltu, branch_eq]
    simp only [condLtu, decide_eq_true_eq]

/-! ### The integer laws (R96) -/

/-- Settles O18: `d = b` overwrites the subtrahend with the difference, any other `d` keeps it. -/
theorem subThenAddRestores : Obligations.SubThenAddRestores := by
  unfold Obligations.SubThenAddRestores
  intro s t u d a b hsub hadd
  obtain rfl : t = (s.writeX d (s.readX a - s.readX b)).advance := by cases hsub; rfl
  obtain rfl : u = ((s.writeX d (s.readX a - s.readX b)).advance.writeX d
      ((s.writeX d (s.readX a - s.readX b)).advance.readX d +
        (s.writeX d (s.readX a - s.readX b)).advance.readX b)).advance := by cases hadd; rfl
  simp only [State.advance_readX, State.readX_writeX_same]
  refine ⟨?_, fun hne => ?_, ?_⟩
  · rw [← BitVec.toNat_add, BitVec.sub_add_cancel]
  · rw [State.readX_writeX_ne s d b _ hne.symm, BitVec.sub_add_cancel]
  · rintro rfl
    rw [State.readX_writeX_same]
    exact (two_mul _).symm

/-! ### Loads and stores (R92, R93) -/

theorem exec_ldw_of_lt {s : State} (d : XReg) {a : XReg} {offset : Word}
    (h : (s.readX a + offset).toNat < 4096) :
    exec (.ldw d a offset) s = .next { s with
      x := s.x.set d.val (s.readDmem (s.readX a + offset).toNat), pc := s.pc + 1 } := by
  rw [exec, execLdw, effectiveAddress, requireWord_of_lt h]
  rfl

theorem exec_stw_of_lt {s : State} (d : XReg) {a : XReg} {offset : Word}
    (h : (s.readX a + offset).toNat < 4096) :
    exec (.stw d a offset) s =
      .next (s.writeDmem (s.readX a + offset).toNat (s.readX d)).advance := by
  rw [exec, execStw, effectiveAddress, requireWord_of_lt h]
  rfl

/-- Settles O20: a store inside DMEM writes one word, which the next load from there returns. -/
theorem loadStoreResults : Obligations.LoadStoreResults := by
  unfold Obligations.LoadStoreResults
  intro s d a offset
  refine ⟨fun h => ⟨exec_ldw_of_lt d h, _, exec_stw_of_lt d h, rfl, ?_, fun k hk => ?_,
    fun e b off haddr => ?_⟩, fun h => ⟨?_, ?_⟩⟩
  · exact State.readDmem_writeDmem_same s _ _
  · exact State.readDmem_writeDmem_ne s _ _ _ hk
  · rw [exec_ldw_of_lt e (by rw [haddr]; exact h), haddr, State.advance_readDmem,
      State.readDmem_writeDmem_same]
  · rw [exec, execLdw, effectiveAddress, requireWord_of_le h, BitVec.ofNat_toNat]
    rfl
  · rw [exec, execStw, effectiveAddress, requireWord_of_le h, BitVec.ofNat_toNat]
    rfl

/-! ### CSRs (R94, R95) -/

theorem exec_csrr_of_csrValue {s : State} (d : XReg) {n w : Word} {value : Word32}
    (hn : n.toNat ≠ 0x0014) (h : csrValue s n.toNat = some value) (hw : w = value.setWidth 16) :
    exec (.csrr d n) s = .next { s with x := s.x.set d.val w, pc := s.pc + 1 } := by
  rw [exec, execCsrr, (csrRead_eq_ok s _ _).2 ⟨hn, value, h, rfl⟩, hw]
  rfl

/-- The numbers a program can read (R15, R94). -/
def readableCsrs : List Word :=
  [0x0000, 0x0001, 0x0002, 0x0003, 0x0004, 0x0010, 0x0011, 0x0012, 0x0013, 0x0015, 0x0016]

theorem csrValue_eq_none {s : State} {n : Nat} (hctrl : n ≠ 0x0014)
    (h : n ∉ readableCsrs.map BitVec.toNat) : csrValue s n = none := by
  unfold csrValue
  split
  case h_10 => exact absurd rfl hctrl
  case h_13 => rfl
  all_goals exact absurd (by decide) h

theorem exec_csrr_of_not_readable {s : State} (d : XReg) {n : Word} (h : n ∉ readableCsrs) :
    exec (.csrr d n) s = .next (s.trap ⟨.csrAccess, n.setWidth 32⟩) := by
  have hnone : n.toNat = 0x0014 ∨ csrValue s n.toNat = none :=
    or_iff_not_imp_left.2 fun hctrl => csrValue_eq_none hctrl fun hmem =>
      h ((List.mem_map_of_injective fun _ _ => BitVec.eq_of_toNat_eq).1 hmem)
  rw [exec, execCsrr, (csrRead_eq_error s _ _).2 ⟨hnone, rfl⟩, BitVec.ofNat_toNat]
  rfl

/-- The bits of a scalar register that a field register keeps. -/
theorem setWidth_csr (w : Word) {k : Nat} (hk : k ≤ 32) :
    w.setWidth k = (w.setWidth 32).setWidth k := (BitVec.setWidth_setWidth_of_le w hk).symm

theorem exec_csrw_of_le {s : State} (a : XReg) {n : Word} (h : 3 ≤ n.toNat) :
    exec (.csrw a n) s = .next (s.trap ⟨.csrAccess, n.setWidth 32⟩) := by
  rw [exec, execCsrw, (writeFieldCsr_eq_none ..).2 h, raiseTrap, BitVec.ofNat_toNat]
  rfl

/-- Settles O21: a program reads the low 16 bits of every CSR but `CTRL`, and writes the three field
registers. -/
theorem csrResults : Obligations.CsrResults := by
  unfold Obligations.CsrResults
  refine ⟨fun s d n value h => ?_, fun s d n h => exec_csrr_of_not_readable d h, fun s a => ?_,
    fun s a n h => exec_csrw_of_le a h⟩
  · simp only [List.mem_cons, List.not_mem_nil, or_false, Prod.mk.injEq] at h
    obtain ⟨rfl, rfl⟩ | ⟨rfl, rfl⟩ | ⟨rfl, rfl⟩ | ⟨rfl, rfl⟩ | ⟨rfl, rfl⟩ | ⟨rfl, rfl⟩ | ⟨rfl, rfl⟩ |
      ⟨rfl, rfl⟩ | ⟨rfl, rfl⟩ | ⟨rfl, rfl⟩ | ⟨rfl, rfl⟩ := h
    case inr.inr.inr.inl =>
      exact exec_csrr_of_csrValue d (by decide) rfl (by cases s.gfValid <;> rfl)
    all_goals exact exec_csrr_of_csrValue d (by decide) rfl (by simp)
  · rw [setWidth_csr (k := 13) _ (by decide), setWidth_csr (k := 12) _ (by decide)]
    exact ⟨rfl, rfl, rfl⟩

end Sys2Proof.Machine
end

section
/-! PROOFS. `GFINIT`, the contents of LOG, the field scalar instructions and the carry-less product
(41_gf_scalar.md R116, R118 to R123, R125). -/

namespace Sys2Proof.Machine

/-- Settles O22: the three checks of `GFINIT` say together that the field is legal. -/
theorem gfinitResults : Obligations.GfinitResults := by
  unfold Obligations.GfinitResults
  intro s
  refine ⟨fun h => ?_, fun h => ?_, fun h => ⟨fun hP => ?_, fun hP hP' hlegal => ?_⟩⟩
  · rw [exec, execGfinit, (gfConfigCheck_eq_ok ..).2 h]
    rfl
  · rw [exec, execGfinit, gfConfigCheck_of_not_legalSize h]
    rfl
  · rw [exec, execGfinit, gfConfigCheck_of_not_degree h hP]
    rfl
  · rw [exec, execGfinit, gfConfigCheck_of_not_order h hP hP' hlegal]
    rfl

/-- Settles O24: LOG is filled from the entries of EXP, which are different and reach every non-zero
element. -/
theorem logTableContents : Obligations.LogTableContents := by
  unfold Obligations.LogTableContents
  intro P N h
  have hN := h.two_le
  refine ⟨length_logList P N, h.getElem?_logList_zero, ?_, fun h2 => ?_, fun i x hi hx => ?_,
    fun a ha haN => ?_⟩
  · exact h.getElem?_logList (k := 0) (by omega)
  · have htwo : expEntry P N 1 = 2 := by
      rw [expEntry_succ, expEntry_zero, expStep, if_neg (by omega)]
    rw [← htwo]
    exact h.getElem?_logList (by omega)
  · obtain rfl : expEntry P N i = x :=
      Option.some.inj ((getElem?_expList P N (by omega)).symm.trans hx)
    exact h.getElem?_logList (by omega)
  · obtain ⟨k, hk, rfl⟩ := h.exists_expEntry_eq ha haN
    exact ⟨k, by omega, h.getElem?_logList hk⟩

/-! ### The field scalar instructions (R119 to R123) -/

section
variable {s : State} {d a b : XReg}

/-- Whatever follows, an instruction whose first operand is outside the field traps on it. -/
theorem complete_requireSym_of_le (valid : s.gfValid = true)
    (h : s.gfSize.toNat ≤ (s.readX a).toNat) (k : Unit → Except Trap State) :
    complete s (do requireGf s; requireSym s (s.readX a) >>= k) =
      .next (s.trap ⟨.operandRange, (s.readX a).setWidth 32⟩) := by
  rw [requireGf_of_valid valid, ok_bind, requireSym_of_le h]
  rfl

/-- An instruction with two operands in the field completes. -/
theorem complete_requireSym_pair (valid : s.gfValid = true)
    (ha : (s.readX a).toNat < s.gfSize.toNat) (hb : (s.readX b).toNat < s.gfSize.toNat) (w : Word) :
    complete s (do
      requireGf s
      requireSym s (s.readX a)
      requireSym s (s.readX b)
      return s.writeX d w) = .next { s with x := s.x.set d.val w, pc := s.pc + 1 } := by
  rw [requireGf_of_valid valid, requireSym_of_lt ha, requireSym_of_lt hb]
  rfl

/-- Settles O25: the checks come before the zero test, and that before the write. -/
theorem fieldScalarResults : Obligations.FieldScalarResults := by
  unfold Obligations.FieldScalarResults
  intro s d a b valid
  refine ⟨fun ha => ⟨fun hb => ⟨?_, ?_⟩, fun hb => ⟨?_, ?_⟩, ?_, fun hne => ⟨?_, ?_⟩, fun hzero => ⟨?_, ?_⟩⟩,
    fun ha i hi => ?_⟩
  · exact complete_requireSym_pair valid ha hb _
  · exact complete_requireSym_pair valid ha hb _
  · rw [exec, execGfadd, requireGf_of_valid valid, requireSym_of_lt ha, requireSym_of_le hb]
    rfl
  · rw [exec, execGfmul, requireGf_of_valid valid, requireSym_of_lt ha, requireSym_of_le hb]
    rfl
  · rw [exec, execGfexp, requireGf_of_valid valid, requireSym_of_lt ha]
    rfl
  · rw [exec, execGfinv, requireGf_of_valid valid, requireSym_of_lt ha, if_neg hne]
    rfl
  · rw [exec, execGflog, requireGf_of_valid valid, requireSym_of_lt ha, if_neg hne]
    rfl
  · rw [exec, execGfinv, requireGf_of_valid valid, requireSym_of_lt ha, if_pos hzero]
    rfl
  · rw [exec, execGflog, requireGf_of_valid valid, requireSym_of_lt ha, if_pos hzero]
    rfl
  · simp only [List.mem_cons, List.not_mem_nil, or_false] at hi
    obtain rfl | rfl | rfl | rfl | rfl := hi <;> exact complete_requireSym_of_le valid ha _

end

/-! ### The carry-less product (R125) -/

theorem mod_two_xor_double (y : Nat) : y % 2 ^^^ y / 2 * 2 = y := by
  refine Nat.eq_of_testBit_eq fun i => ?_
  cases i with
  | zero => simp [Nat.testBit_zero]
  | succ i => rw [Nat.testBit_xor, Nat.testBit_succ, Nat.testBit_succ, Nat.testBit_succ, Nat.mod_div_self,
      Nat.zero_testBit, Bool.false_xor, Nat.mul_div_cancel _ Nat.two_pos]

/-- An element is its low bit and twice its upper half. -/
theorem LegalField.eq_bit_add_double {P N b : Nat} (h : LegalField P N) {y bit half : Word}
    (hy : IsSymbol (builtField P N b) y) (hbit : bit.toNat = y.toNat % 2)
    (hhalf : half.toNat = y.toNat / 2) :
    y = gfAdd bit (gfMul (builtField P N b) (alphaPow (builtField P N b) 1) half) := by
  have hyN : y.toNat < N := hy
  have hhalfN : half.toNat < N := by omega
  refine BitVec.eq_of_toNat_eq ?_
  rw [gfAdd, BitVec.toNat_xor, h.toNat_gfMul_alphaPow b 1 hhalfN, Function.iterate_one, expStep,
    if_neg (by omega), hbit, hhalf, mod_two_xor_double]

theorem LegalField.toNat_gfMul_bit {P N b : Nat} (h : LegalField P N) {x bit : Word}
    (hx : IsSymbol (builtField P N b) x) {n : Nat} (hbit : bit.toNat = n % 2) :
    (gfMul (builtField P N b) x bit).toNat = if n % 2 = 1 then x.toNat else 0 := by
  split
  · next hone =>
    obtain rfl : bit = 1 := BitVec.eq_of_toNat_eq (hbit.trans hone)
    rw [h.gfMul_one b hx]
  · next hone =>
    obtain rfl : bit = 0 := BitVec.eq_of_toNat_eq (hbit.trans (Nat.mod_two_ne_one.1 hone))
    rw [gfMul_zero_right]
    rfl

/-- The product of R125 over the low `bits` bits of the second factor. -/
theorem LegalField.toNat_gfMul_eq_carrylessProduct {P N b : Nat} (h : LegalField P N) (bits : Nat)
    {x y : Word} (hx : IsSymbol (builtField P N b) x) (hy : IsSymbol (builtField P N b) y)
    (hbits : y.toNat < 2 ^ bits) :
    (gfMul (builtField P N b) x y).toNat = carrylessProduct P N bits x.toNat y.toNat := by
  induction bits generalizing x y with
  | zero =>
    obtain rfl : y = 0 := BitVec.eq_of_toNat_eq (by simpa using hbits)
    rw [gfMul_zero_right]
    rfl
  | succ bits ih =>
    have hyN : y.toNat < N := hy
    have h2 := h.two_le
    obtain ⟨bit, hbit⟩ : ∃ bit : Word, bit.toNat = y.toNat % 2 :=
      ⟨BitVec.ofNat 16 (y.toNat % 2), by rw [BitVec.toNat_ofNat]; omega⟩
    obtain ⟨half, hhalf⟩ : ∃ half : Word, half.toNat = y.toNat / 2 :=
      ⟨BitVec.ofNat 16 (y.toNat / 2), by rw [BitVec.toNat_ofNat]; omega⟩
    have hbitN : IsSymbol (builtField P N b) bit := show bit.toNat < N by omega
    have hhalfN : IsSymbol (builtField P N b) half := show half.toNat < N by omega
    have hα := h.isSymbol_alphaPow b 1
    have hdouble := h.isSymbol_gfMul b hα hx
    have hrest := ih hdouble hhalfN (by omega)
    rw [h.toNat_gfMul_alphaPow b 1 hx, Function.iterate_one, hhalf] at hrest
    calc (gfMul (builtField P N b) x y).toNat
        = (gfAdd (gfMul (builtField P N b) x bit)
            (gfMul (builtField P N b) (gfMul (builtField P N b) (alphaPow (builtField P N b) 1) x)
              half)).toNat := by
          conv_lhs => rw [h.eq_bit_add_double hy hbit hhalf]
          rw [h.gfMul_gfAdd b hx hbitN (h.isSymbol_gfMul b hα hhalfN), ← h.gfMul_assoc b hx hα hhalfN,
            gfMul_comm _ x (alphaPow _ _)]
      _ = (if y.toNat % 2 = 1 then x.toNat else 0) ^^^
            carrylessProduct P N bits (expStep P N x.toNat) (y.toNat / 2) := by
          rw [gfAdd, BitVec.toNat_xor, h.toNat_gfMul_bit hx hbit, hrest]

/-- Settles O27: 12 bits hold every element. -/
theorem multiplyIsCarrylessProduct : Obligations.MultiplyIsCarrylessProduct := by
  unfold Obligations.MultiplyIsCarrylessProduct
  rintro P N b h _ rfl x y hx hy
  exact h.toNat_gfMul_eq_carrylessProduct 12 hx hy (Nat.lt_of_lt_of_le hy h.le_4096)

end Sys2Proof.Machine
end

section
/-! PROOFS. The raw vector instructions and the normal form (42_gf_poly.md R131, R140 to R144). -/

namespace Sys2Proof.Machine

/-- `VST` inside DMEM: what the run's words read afterwards, and that nothing else changed. -/
theorem exec_vst_of_le {s : State} {av : VReg} {a : XReg}
    (h : (s.readX a).toNat + (s.readV av).length ≤ 4096) :
    ∃ t, exec (.vst av a) s = .next t ∧ t = { s with dmem := t.dmem, pc := s.pc + 1 } ∧
      (∀ i w, (s.readV av)[i]? = some w → t.readDmem ((s.readX a).toNat + i) = w) ∧
      ∀ k, k < (s.readX a).toNat ∨ (s.readX a).toNat + (s.readV av).length ≤ k →
        t.readDmem k = s.readDmem k := by
  refine ⟨(s.writeRun (s.readX a).toNat (s.readV av)).advance, ?_, ?_, fun i w hw => ?_,
    fun k hk => ?_⟩
  · rw [exec, execVst, requireRun_of_le h]
    rfl
  · obtain ⟨m, hm⟩ := exists_writeRun_eq s (s.readX a).toNat (s.readV av)
    rw [hm]
    rfl
  · obtain ⟨hi, rfl⟩ := List.getElem?_eq_some_iff.1 hw
    exact State.readDmem_writeRun_inside _ s _ i hi
  · exact State.readDmem_writeRun_outside _ s _ k fun j hj => by omega

/-- Settles O28: the bounds of the run and of the index are the only checks. -/
theorem rawVectorResults : Obligations.RawVectorResults := by
  unfold Obligations.RawVectorResults
  intro s dv av dx a b
  refine ⟨fun h => ?_, fun h => ?_, exec_vst_of_le, fun h => ?_, rfl, fun w hw => ?_, fun h => ?_, rfl⟩
  · rw [exec, execVld, requireRun_of_le h]
    rfl
  · rw [exec, execVld, requireRun_of_lt h]
    rfl
  · rw [exec, execVst, requireRun_of_lt h]
    rfl
  · obtain ⟨hlt, -⟩ := List.getElem?_eq_some_iff.1 hw
    rw [exec, execVget, if_neg (Nat.not_le.2 hlt), List.getD_eq_getElem?_getD, hw]
    rfl
  · rw [exec, execVget, if_pos h, raiseTrap, BitVec.ofNat_toNat]
    rfl

/-- Settles O29: the zeros dropped from the front, and what is left begins with no zero. -/
theorem normRule : Obligations.NormRule := by
  unfold Obligations.NormRule
  intro f l hl
  obtain ⟨k, hk, hne, hlead⟩ := eq_zeros_append_norm hl
  exact ⟨⟨k, hk⟩, hne, hlead, norm_eq_self hlead, isPoly_norm hl⟩

end Sys2Proof.Machine
end

section
/-! PROOFS. The polynomial instructions (42_gf_poly.md R139, R145 to R155). Their results hold whatever
the tables hold. -/

namespace Sys2Proof.Machine

/-! ### Coefficients and the zero test (R132, R133) -/

theorem coef_eq_getD_reverse (p : Poly) (k : Nat) : coef p k = p.reverse.getD k 0 := by
  rw [coef, List.getD_eq_getElem?_getD, List.getD_eq_getElem?_getD]
  split
  · next hk => rw [List.getElem?_reverse hk]
  · next hk =>
    rw [List.getElem?_eq_none (by rw [List.length_reverse]; exact Nat.le_of_not_lt hk)]
    rfl

theorem isZero_iff (p : Poly) : isZero p = true ↔ lead p = 0 := beq_iff_eq

theorem isZero_norm_iff {l : Poly} (hl : l ≠ []) : isZero (norm l) = true ↔ norm l = [0] := by
  obtain ⟨-, -, -, hlead⟩ := eq_zeros_append_norm hl
  exact ⟨fun h => hlead ((isZero_iff _).1 h), fun h => by rw [h]; rfl⟩

theorem isZero_norm_of_ne {l : Poly} (hl : l ≠ []) (h : norm l ≠ [0]) : isZero (norm l) = false :=
  Bool.eq_false_iff.2 (mt (isZero_norm_iff hl).1 h)

/-- A list is zero as a polynomial exactly when all its entries are. -/
theorem isZero_norm_eq_all {l : Poly} (hl : l ≠ []) : isZero (norm l) = l.all (· == 0) := by
  obtain ⟨k, hk, hne, hlead⟩ := eq_zeros_append_norm hl
  rw [Bool.eq_iff_iff, isZero_norm_iff hl, List.all_eq_true]
  constructor
  · intro hzero a ha
    rw [hk, hzero] at ha
    obtain ha | ha := List.mem_append.1 ha
    · exact beq_iff_eq.2 (List.eq_of_mem_replicate ha)
    · exact beq_iff_eq.2 (List.mem_singleton.1 ha)
  · intro hall
    refine hlead (beq_iff_eq.1 (hall _ ?_))
    have hmem : lead (norm l) ∈ norm l := by
      obtain ⟨c, p, hp⟩ := List.exists_cons_of_ne_nil hne
      rw [hp]
      exact List.mem_cons_self
    exact (congrArg (lead (norm l) ∈ ·) hk).mpr (List.mem_append_right (zeros k) hmem)

/-! ### Products with a monomial (R136, R152, R153) -/

theorem xorFront_nil_right (p : Poly) : xorFront p [] = p := by cases p <;> rfl

theorem xorFront_zeros {k : Nat} {q : Poly} (h : k ≤ q.length) : xorFront (zeros k) q = q := by
  induction k generalizing q with
  | zero => exact rfl
  | succ k ih =>
    cases q with
    | nil => cases h
    | cons c q => exact congrArg₂ List.cons BitVec.zero_xor (ih (Nat.le_of_succ_le_succ h))

theorem map_gfMul_monomial (f : GF) (x c : Word) (k : Nat) :
    (c :: zeros k).map (gfMul f x) = gfMul f x c :: zeros k := by
  rw [List.map_cons, zeros, List.map_replicate, gfMul_zero_right]

theorem convolve_monomial (f : GF) {p : Poly} (hp : p ≠ []) (c : Word) (k : Nat) :
    convolve f p (c :: zeros k) = p.map (fun x => gfMul f x c) ++ zeros k := by
  induction p with
  | nil => exact absurd rfl hp
  | cons x p ih =>
    rw [convolve, map_gfMul_monomial, xorFront]
    refine congrArg₂ List.cons BitVec.xor_zero ?_
    cases p with
    | nil => exact xorFront_nil_right _
    | cons y p =>
      rw [ih (List.cons_ne_nil y p)]
      exact xorFront_zeros (by rw [List.length_append, length_zeros]; omega)

/-- The product with `c * x^k` scales the coefficients and appends `k` zeros. -/
theorem polyMul_monomial (f : GF) {l : Poly} (hl : l ≠ []) {c : Word} (hc : c ≠ 0)
    (hne : norm l ≠ [0]) (k : Nat) :
    polyMul f (norm l) (c :: zeros k) = (norm l).map (fun x => gfMul f x c) ++ zeros k := by
  obtain ⟨-, -, hnil, -⟩ := eq_zeros_append_norm hl
  rw [polyMul, isZero_norm_of_ne hl hne, isZero_cons hc, if_neg (by decide), convolve_monomial f hnil]

theorem polyMul_zero_left (f : GF) (q : Poly) : polyMul f [0] q = [0] := if_pos (.inl rfl)

theorem polyMul_zero_right (f : GF) (p : Poly) : polyMul f p [0] = [0] := if_pos (.inr rfl)

theorem polyMul_constant (f : GF) {l : Poly} (hl : l ≠ []) (c : Word) :
    polyMul f (norm l) (polyMono 0 c) =
      if c = 0 then [0] else (norm l).map fun x => gfMul f x c := by
  rw [polyMono]
  split
  · exact polyMul_zero_right f _
  · next hc =>
    by_cases hzero : norm l = [0]
    · rw [hzero, polyMul_zero_left]
      exact congrArg (· :: []) (gfMul_zero_left f c).symm
    · rw [polyMul_monomial f hl hc hzero]
      exact List.append_nil _

theorem monomialProduct_eq_ok {s : State} {l : Poly} (hl : l ≠ []) {k : Nat} {c : Word}
    (hfits : c = 0 ∨ norm l = [0] ∨ (norm l).length + k ≤ 4096) :
    monomialProduct s (norm l) k c = .ok (polyMul s.gf (norm l) (polyMono k c)) := by
  rw [monomialProduct, polyMono]
  by_cases hc : c = 0
  · rw [if_pos (.inl hc), if_pos hc, polyMul_zero_right]
  by_cases hzero : norm l = [0]
  · rw [if_pos (.inr ((isZero_norm_iff hl).2 hzero)), hzero, polyMul_zero_left]
  · have hle : (norm l).length + k ≤ 4096 := (hfits.resolve_left hc).resolve_left hzero
    rw [if_neg (not_or_intro hc (mt (isZero_norm_iff hl).1 hzero)), if_neg (Nat.not_lt.2 hle),
      if_neg hc, polyMul_monomial s.gf hl hc hzero]

theorem monomialProduct_eq_error {s : State} {l : Poly} (hl : l ≠ []) {k : Nat} {c : Word}
    (hc : c ≠ 0) (hzero : norm l ≠ [0]) (hlong : 4096 < (norm l).length + k) :
    monomialProduct s (norm l) k c =
      .error ⟨.vecOverflow, BitVec.ofNat 32 ((norm l).length + k)⟩ := by
  rw [monomialProduct, if_neg (not_or_intro hc (mt (isZero_norm_iff hl).1 hzero)), if_pos hlong]
  rfl

theorem polyMonoChecked_eq_ok {d : Nat} {c : Word} (h : c = 0 ∨ d ≤ 4095) :
    polyMonoChecked d c = .ok (polyMono d c) :=
  if_neg fun hlong => h.elim hlong.1 fun hd => by have : 4096 < d + 1 := hlong.2; omega

theorem polyMulChecked_eq_ok {f : GF} {p q : Poly}
    (h : p = [0] ∨ q = [0] ∨ p.length + q.length - 1 ≤ 4096) :
    polyMulChecked f p q = .ok (polyMul f p q) := by
  refine if_neg fun ⟨hp, hq, hlong⟩ => ?_
  obtain rfl | rfl | hfits := h
  · exact absurd hp (by decide)
  · exact absurd hq (by decide)
  · exact absurd hlong (Nat.not_lt.2 hfits)

/-! ### Results -/

/-- Settles O30: after the field and the source are checked there is nothing left to fail, but for the
point of `PEVAL`. -/
theorem polyQueryResults : Obligations.PolyQueryResults := by
  unfold Obligations.PolyQueryResults
  rintro s dx b dv a _ valid ha rfl
  have hread := readPoly_of_holdsPoly ha
  refine ⟨?_, ?_, ?_, ?_, fun hb => ?_, fun hb => ?_⟩
  · rw [exec, execPnorm, requireGf_of_valid valid, hread]
    rfl
  · rw [exec, execPdeg, requireGf_of_valid valid, hread]
    rfl
  · rw [exec, execPcoef, requireGf_of_valid valid, hread, ← coef_eq_getD_reverse]
    rfl
  · rw [exec, execPisz, requireGf_of_valid valid, hread, ← isZero_norm_eq_all ha.1]
    rfl
  · rw [exec, execPeval, requireGf_of_valid valid, hread, requireSym_of_lt hb]
    rfl
  · rw [exec, execPeval, requireGf_of_valid valid, hread, requireSym_of_le hb]
    rfl

/-- Settles O31: each result is that of the polynomial function whose length test passes. -/
theorem polyBuildResults : Obligations.PolyBuildResults := by
  unfold Obligations.PolyBuildResults
  intro s d e a b k c p q valid
  refine ⟨fun hc hfits => ?_, ?_⟩
  · rw [exec, execPmono, requireGf_of_valid valid, requireSym_of_lt hc, polyMonoChecked_eq_ok hfits]
    rfl
  rintro ha rfl
  have hread := readPoly_of_holdsPoly ha
  refine ⟨fun hc => ⟨?_, fun hfits => ?_⟩, ?_⟩
  · rw [exec, execPscale, requireGf_of_valid valid, hread, requireSym_of_lt hc,
      ← polyMul_constant s.gf ha.1]
    rfl
  · rw [exec, execPmulm, requireGf_of_valid valid, hread, requireSym_of_lt hc, ok_bind, ok_bind,
      ok_bind, monomialProduct_eq_ok ha.1 hfits]
    rfl
  rintro hb rfl
  have hread' := readPoly_of_holdsPoly hb
  refine ⟨?_, fun hfits => ?_, fun hq => ?_⟩
  · rw [exec, execPadd, requireGf_of_valid valid, hread, hread']
    rfl
  · rw [exec, execPmul, requireGf_of_valid valid, hread, hread', ok_bind, ok_bind, ok_bind,
      polyMulChecked_eq_ok hfits]
    rfl
  · have hdivmod : ∃ quo rem, polyDivmod s.gf (norm (s.readV a)) (norm (s.readV b)) =
        .ok (quo, rem) := by
      rw [polyDivmod, isZero_norm_of_ne hb.1 hq]
      exact ⟨_, _, rfl⟩
    obtain ⟨quo, rem, h⟩ := hdivmod
    refine ⟨quo, rem, h, ?_⟩
    rw [exec, execPdiv, requireGf_of_valid valid, hread, hread', ok_bind, ok_bind, ok_bind, h]
    rfl

/-! ### Traps (R111, R139) -/

theorem eq_of_singleton_eq_append {r v : VReg} {before after : List VReg}
    (h : [v] = before ++ r :: after) : before = [] ∧ v = r := by
  cases before with
  | nil => exact ⟨rfl, List.head_eq_of_cons_eq h⟩
  | cons x before => exact absurd (List.tail_eq_of_cons_eq h).symm (by simp)

theorem eq_of_pair_eq_append {r v w : VReg} {before after : List VReg}
    (h : [v, w] = before ++ r :: after) : v = r ∨ (before = [v] ∧ w = r) := by
  cases before with
  | nil => exact .inl (List.head_eq_of_cons_eq h)
  | cons x before =>
    obtain ⟨rfl, hw⟩ := eq_of_singleton_eq_append (List.tail_eq_of_cons_eq h)
    exact .inr ⟨by rw [List.head_eq_of_cons_eq h], hw⟩

section
variable {s : State} {e : Trap}

/-- Whatever follows, an instruction whose first source is no polynomial traps on it. -/
theorem complete_first_source {r : VReg} (valid : s.gfValid = true) (he : readPoly s r = .error e)
    (k : Poly → Except Trap State) :
    complete s (do requireGf s; readPoly s r >>= k) = .next (s.trap e) := by
  rw [requireGf_of_valid valid, he]
  rfl

theorem complete_second_source {v r : VReg} (valid : s.gfValid = true) (hv : s.HoldsPoly v)
    (he : readPoly s r = .error e) (k : Poly → Poly → Except Trap State) :
    complete s (do
      requireGf s
      let p ← readPoly s v
      readPoly s r >>= k p) = .next (s.trap e) := by
  rw [requireGf_of_valid valid, readPoly_of_holdsPoly hv, he]
  rfl

/-- The sources are read in their order, before anything else but the field-ready check. -/
theorem exec_of_source_error {i : Instr} {before after : List VReg} {r : VReg}
    (valid : s.gfValid = true) (hi : polySources i = before ++ r :: after)
    (hbefore : ∀ v ∈ before, s.HoldsPoly v) (he : readPoly s r = .error e) :
    exec i s = .next (s.trap e) := by
  cases i with
  | pnorm | pdeg | pcoef | pisz | pscale | pmulm | peval | rschien | rsforn | rseuc =>
    obtain ⟨-, rfl⟩ := eq_of_singleton_eq_append hi
    exact complete_first_source valid he _
  | padd | pmul | pdiv =>
    obtain rfl | ⟨rfl, rfl⟩ := eq_of_pair_eq_append hi
    · exact complete_first_source valid he _
    · exact complete_second_source valid (hbefore _ (List.mem_singleton_self _)) he _
  | _ => exact absurd hi.symm (by simp [polySources])

end

/-- Settles O32: sources first, then the scalar, then the length or the divisor. -/
theorem polyTraps : Obligations.PolyTraps := by
  unfold Obligations.PolyTraps
  intro s valid
  refine ⟨fun i before after r hi hbefore => ⟨fun hempty => ?_, fun w hw => ?_⟩,
    fun d e a b k c => ⟨fun hc => ⟨?_, fun ha => ?_⟩, fun hc hne => ⟨fun hk => ?_, fun ha hzero hlong => ?_⟩,
      fun ha hb => ⟨fun hp hq hlong => ?_, fun hzero => ?_⟩⟩⟩
  · exact exec_of_source_error valid hi hbefore (readPoly_of_empty hempty)
  · exact exec_of_source_error valid hi hbefore (readPoly_of_firstOutside hw)
  · rw [exec, execPmono, requireGf_of_valid valid, requireSym_of_le hc]
    rfl
  · rw [exec, execPscale, exec, execPmulm, requireGf_of_valid valid, readPoly_of_holdsPoly ha,
      requireSym_of_le hc]
    exact ⟨rfl, rfl⟩
  · rw [exec, execPmono, requireGf_of_valid valid, requireSym_of_lt hc, polyMonoChecked,
      if_pos ⟨hne, Nat.lt_succ_of_le hk⟩]
    rfl
  · rw [exec, execPmulm, requireGf_of_valid valid, readPoly_of_holdsPoly ha, requireSym_of_lt hc,
      ok_bind, ok_bind, ok_bind, monomialProduct_eq_error ha.1 hne hzero hlong]
    rfl
  · rw [exec, execPmul, requireGf_of_valid valid, readPoly_of_holdsPoly ha, readPoly_of_holdsPoly hb,
      ok_bind, ok_bind, ok_bind, polyMulChecked,
      if_pos ⟨isZero_norm_of_ne ha.1 hp, isZero_norm_of_ne hb.1 hq, hlong⟩]
    rfl
  · rw [exec, execPdiv, requireGf_of_valid valid, readPoly_of_holdsPoly ha, readPoly_of_holdsPoly hb,
      hzero]
    rfl

end Sys2Proof.Machine
end

section
/-! PROOFS. The ring of polynomials, division and evaluation on a legal field (42_gf_poly.md R134 to
R138, R156): laws of `K[X]`, brought back along the injective map of symbols into a field `K`. -/

namespace Sys2Proof.Machine

open Polynomial

/-! ### Coefficients of the polynomial of a list (R132) -/

section
variable {K : Type} [CommRing K] {φ : Word → K} {f : GF}

theorem coef_cons (c : Word) (p : Poly) (k : Nat) :
    coef (c :: p) k = if k = p.length then c else coef p k := by
  rw [coef_eq_getD_reverse, coef_eq_getD_reverse, List.getD_eq_getElem?_getD,
    List.getD_eq_getElem?_getD, List.reverse_cons, List.getElem?_append, List.length_reverse]
  obtain hlt | rfl | hgt := lt_trichotomy k p.length
  · rw [if_pos hlt, if_neg hlt.ne]
  · simp
  · rw [if_neg hgt.not_gt, if_neg hgt.ne', List.getElem?_eq_none (l := p.reverse) (by simp; omega),
      List.getElem?_eq_none (by simp; omega)]

theorem IsFieldMap.map_coef (hφ : IsFieldMap f φ) (p : Poly) (k : Nat) :
    φ (coef p k) = (toPolynomial φ p).coeff k := by
  induction p with
  | nil => simpa [coef, toPolynomial] using hφ.map_zero
  | cons c p ih =>
    rw [coef_cons, toPolynomial, coeff_add, coeff_C_mul_X_pow, ← ih]
    split
    · next hk => rw [ih, coeff_toPolynomial_of_length_le p hk.ge, add_zero]
    · rw [zero_add]

theorem toPolynomial_singleton (c : Word) : toPolynomial φ [c] = C (φ c) := by
  simp [toPolynomial]

theorem IsFieldMap.toPolynomial_zero (hφ : IsFieldMap f φ) : toPolynomial φ [0] = 0 :=
  hφ.toPolynomial_zeros 1

theorem IsFieldMap.toPolynomial_one (hφ : IsFieldMap f φ) : toPolynomial φ [1] = 1 := by
  rw [toPolynomial_singleton, hφ.map_one, C_1]

end

/-! ### Polynomials are determined by their images -/

section
variable {P N b : Nat} {K : Type} [CommRing K] {φ : Word → K}

theorem LegalField.isPoly_ext (h : LegalField P N) (hφ : IsFieldMap (builtField P N b) φ) {p q : Poly}
    (hp : IsPoly (builtField P N b) p) (hq : IsPoly (builtField P N b) q)
    (he : toPolynomial φ p = toPolynomial φ q) : p = q := by
  obtain ⟨hpne, hps, hplead⟩ := hp
  obtain ⟨hqne, hqs, hqlead⟩ := hq
  rw [← norm_eq_self hplead, ← norm_eq_self hqlead]
  exact h.norm_eq_of_toPolynomial_eq hφ hpne hqne hps hqs he

theorem LegalField.toPolynomial_ne_zero (h : LegalField P N) (hφ : IsFieldMap (builtField P N b) φ)
    {p : Poly} (hp : IsPoly (builtField P N b) p) (hne : p ≠ [0]) : toPolynomial φ p ≠ 0 :=
  fun he => hne (h.isPoly_ext hφ hp (h.isPoly_zero b) (he.trans hφ.toPolynomial_zero.symm))

/-- An identity between a sum and a polynomial, seen in `K[X]`. -/
theorem LegalField.eq_polyAdd_iff (h : LegalField P N) (hφ : IsFieldMap (builtField P N b) φ)
    {p q r : Poly} (hp : IsPoly (builtField P N b) p) (hq : IsPoly (builtField P N b) q)
    (hr : IsPoly (builtField P N b) r) :
    p = polyAdd q r ↔ toPolynomial φ p = toPolynomial φ q + toPolynomial φ r := by
  rw [← h.toPolynomial_polyAdd hφ hq.2.1 hr.2.1]
  exact ⟨congrArg _, h.isPoly_ext hφ hp (h.isPoly_polyAdd b hq hr)⟩

theorem isPoly_constant {f : GF} {c : Word} (hc : IsSymbol f c) : IsPoly f [c] :=
  ⟨List.cons_ne_nil c [], areSymbols_cons.2 ⟨hc, List.forall_mem_nil _⟩, fun hzero => by
    rw [show c = 0 from hzero]⟩

end

section
variable {P N b : Nat}

/-- Degrees add and leading coefficients multiply. -/
theorem IsPoly.deg_lead_polyMul {f : GF} {p q : Poly} (hp : IsPoly f p) (hq : IsPoly f q)
    (hpne : p ≠ [0]) (hqne : q ≠ [0]) :
    deg (polyMul f p q) = deg p + deg q ∧ lead (polyMul f p q) = gfMul f (lead p) (lead q) := by
  obtain ⟨c, p, rfl, hc, -⟩ := hp.eq_zero_or_cons.resolve_left hpne
  obtain ⟨d, q, rfl, hd, -⟩ := hq.eq_zero_or_cons.resolve_left hqne
  obtain ⟨l, hl, hlen⟩ := polyMul_cons_cons f hc hd p q
  rw [hl]
  exact ⟨hlen, rfl⟩

/-- The coefficients of a sum (R134). -/
theorem LegalField.coef_polyAdd (h : LegalField P N) {p q : Poly}
    (hp : IsPoly (builtField P N b) p) (hq : IsPoly (builtField P N b) q) (k : Nat) :
    coef (polyAdd p q) k = coef p k ^^^ coef q k := by
  obtain ⟨K, _, φ, hφ⟩ := h.exists_isFieldMap b
  have hpk := h.isSymbol_coef hp.2.1 k
  have hqk := h.isSymbol_coef hq.2.1 k
  refine hφ.injOn (h.isSymbol_coef (h.isPoly_polyAdd b hp hq).2.1 k) (h.isSymbol_gfAdd b hpk hqk) ?_
  rw [hφ.map_coef, h.toPolynomial_polyAdd hφ hp.2.1 hq.2.1, coeff_add, ← hφ.map_coef, ← hφ.map_coef]
  exact (hφ.map_add hpk hqk).symm

/-- Settles O33: each law holds in `K[X]`, where sums and products of polynomials are mapped. -/
theorem polynomialRingLaws : Obligations.PolynomialRingLaws := by
  unfold Obligations.PolynomialRingLaws
  rintro P N b h _ rfl p q r hp hq hr
  obtain ⟨K, _, φ, hφ⟩ := h.exists_isFieldMap b
  have hpq := h.isPoly_polyAdd b hp hq
  have hqr := h.isPoly_polyAdd b hq hr
  have hpqm := h.isPoly_polyMul b hp hq
  have hqrm := h.isPoly_polyMul b hq hr
  have hprm := h.isPoly_polyMul b hp hr
  have hzero := h.isPoly_zero b
  have hone := isPoly_constant (h.isSymbol_one b)
  refine ⟨hpq, hpqm, h.coef_polyAdd hp hq, ?_, ?_, ?_, ?_, ?_, ?_, ?_, ?_, hp.deg_lead_polyMul hq⟩
  · rw [h.eq_polyAdd_iff hφ hpq hq hp, h.toPolynomial_polyAdd hφ hp.2.1 hq.2.1, add_comm]
  · rw [h.eq_polyAdd_iff hφ (h.isPoly_polyAdd b hpq hr) hp hqr,
      h.toPolynomial_polyAdd hφ hpq.2.1 hr.2.1, h.toPolynomial_polyAdd hφ hp.2.1 hq.2.1,
      h.toPolynomial_polyAdd hφ hq.2.1 hr.2.1, add_assoc]
  · exact ((h.eq_polyAdd_iff hφ hp hp hzero).2 (by rw [hφ.toPolynomial_zero, add_zero])).symm
  · exact ((h.eq_polyAdd_iff hφ hzero hp hp).2
      (by rw [hφ.toPolynomial_zero, h.add_self hφ])).symm
  · refine h.isPoly_ext hφ hpqm (h.isPoly_polyMul b hq hp) ?_
    rw [h.toPolynomial_polyMul hφ hp hq, h.toPolynomial_polyMul hφ hq hp, mul_comm]
  · refine h.isPoly_ext hφ (h.isPoly_polyMul b hpqm hr) (h.isPoly_polyMul b hp hqrm) ?_
    rw [h.toPolynomial_polyMul hφ hpqm hr, h.toPolynomial_polyMul hφ hp hq,
      h.toPolynomial_polyMul hφ hp hqrm, h.toPolynomial_polyMul hφ hq hr, mul_assoc]
  · refine h.isPoly_ext hφ (h.isPoly_polyMul b hp hone) hp ?_
    rw [h.toPolynomial_polyMul hφ hp hone, hφ.toPolynomial_one, mul_one]
  · rw [h.eq_polyAdd_iff hφ (h.isPoly_polyMul b hp hqr) hpqm hprm,
      h.toPolynomial_polyMul hφ hp hqr, h.toPolynomial_polyAdd hφ hq.2.1 hr.2.1,
      h.toPolynomial_polyMul hφ hp hq, h.toPolynomial_polyMul hφ hp hr, mul_add]

end

/-! ### Division (R137) -/

/-- Quotient and remainder in `K[X]` are determined by the degree of the remainder. -/
theorem division_unique {K : Type} [Field K] {q q' r r' d : K[X]}
    (he : q' * d + r' = q * d + r) (hr : r.degree < d.degree) (hr' : r'.degree < d.degree) :
    q' = q ∧ r' = r := by
  have hd : d ≠ 0 := degree_ne_bot.1 (bot_le.trans_lt hr).ne'
  have hdvd : d ∣ r' - r := ⟨q - q', by linear_combination he⟩
  have hrr : r' - r = 0 :=
    eq_zero_of_dvd_of_degree_lt hdvd ((degree_sub_le _ _).trans_lt (max_lt hr' hr))
  have hr'r : r' = r := sub_eq_zero.1 hrr
  refine ⟨mul_right_cancel₀ hd (add_right_cancel (b := r) ?_), hr'r⟩
  rw [← he, hr'r]

section
variable {P N b : Nat} {K : Type} [Field K] {φ : Word → K}

/-- The bound on a remainder, in `K[X]`. -/
theorem LegalField.degree_lt (h : LegalField P N) (hφ : IsFieldMap (builtField P N b) φ) {r d : Poly}
    (hr : IsPoly (builtField P N b) r) (hd : IsPoly (builtField P N b) d) (hdne : d ≠ [0])
    (hlt : r = [0] ∨ deg r < deg d) : (toPolynomial φ r).degree < (toPolynomial φ d).degree := by
  obtain rfl | hlt := hlt
  · rw [hφ.toPolynomial_zero, degree_zero]
    exact bot_lt_iff_ne_bot.2 (degree_ne_bot.2 (h.toPolynomial_ne_zero hφ hd hdne))
  · refine degree_lt_degree ?_
    rw [h.natDegree_toPolynomial hφ hr, h.natDegree_toPolynomial hφ hd]
    exact hlt

/-- A divisor of degree 0 is a constant with an inverse. -/
theorem LegalField.polyMul_inverse_constant (h : LegalField P N)
    (hφ : IsFieldMap (builtField P N b) φ) {p d : Poly} (hp : IsPoly (builtField P N b) p)
    (hd : IsPoly (builtField P N b) d) (hdne : d ≠ [0]) (hdeg : deg d = 0) :
    IsPoly (builtField P N b) (polyMul (builtField P N b) p [gfInv (builtField P N b) (lead d)]) ∧
      toPolynomial φ (polyMul (builtField P N b) p [gfInv (builtField P N b) (lead d)]) *
        toPolynomial φ d = toPolynomial φ p := by
  obtain ⟨c, l, rfl, hne, hc, -⟩ := hd.eq_zero_or_cons.resolve_left hdne
  obtain rfl : l = [] := List.eq_nil_of_length_eq_zero hdeg
  have hinv := isPoly_constant (h.isSymbol_gfInv b hc)
  refine ⟨h.isPoly_polyMul b hp hinv, ?_⟩
  rw [show lead [c] = c from rfl, h.toPolynomial_polyMul hφ hp hinv, toPolynomial_singleton,
    toPolynomial_singleton, mul_assoc, ← C_mul, mul_comm (φ _), ← hφ.map_mul hc (h.isSymbol_gfInv b hc),
    h.gfMul_gfInv b hc hne, hφ.map_one, C_1, mul_one]

end

/-- Settles O34: the loop of R137 ends with a division, and there is only one; a short dividend and a
constant divisor have divisions that can be written down. -/
theorem divisionLaws : Obligations.DivisionLaws := by
  unfold Obligations.DivisionLaws
  rintro P N b h _ rfl p d hp hd
  refine ⟨fun hzero => by rw [hzero]; rfl, fun hdne => ?_⟩
  obtain ⟨K, _, _, φ, hφ⟩ := h.exists_isFieldMap_field b
  obtain ⟨c, l, hcons, hc, -⟩ := hd.eq_zero_or_cons.resolve_left hdne
  have hlead : isZero d = false := by rw [hcons]; exact isZero_cons hc l
  obtain ⟨q, r, hdivmod, ⟨hq, hr, hidentity⟩, hshort⟩ := h.exists_polyDivmod hφ hp hd hlead
  have hdlen : 0 < d.length := List.length_pos_iff.2 hd.1
  have hrdeg : r = [0] ∨ deg r < deg d := hshort.imp_right fun hlt => by
    have := List.length_pos_iff.2 hr.1
    unfold deg
    omega
  have hunique : ∀ q' r', IsPoly (builtField P N b) q' → IsPoly (builtField P N b) r' →
      toPolynomial φ q' * toPolynomial φ d + toPolynomial φ r' = toPolynomial φ p →
      (r' = [0] ∨ deg r' < deg d) → q' = q ∧ r' = r := by
    intro q' r' hq' hr' he hlt
    obtain ⟨heq, her⟩ := division_unique (he.trans hidentity.symm)
      (h.degree_lt hφ hr hd hdne hrdeg) (h.degree_lt hφ hr' hd hdne hlt)
    exact ⟨h.isPoly_ext hφ hq' hq heq, h.isPoly_ext hφ hr' hr her⟩
  have hsum : ∀ q' r', IsPoly (builtField P N b) q' → IsPoly (builtField P N b) r' →
      (p = polyAdd (polyMul (builtField P N b) q' d) r' ↔
        toPolynomial φ q' * toPolynomial φ d + toPolynomial φ r' = toPolynomial φ p) := by
    intro q' r' hq' hr'
    rw [h.eq_polyAdd_iff hφ hp (h.isPoly_polyMul b hq' hd) hr', h.toPolynomial_polyMul hφ hq' hd,
      eq_comm]
  refine ⟨q, r, hdivmod, hq, hr, (hsum q r hq hr).2 hidentity, hrdeg,
    fun q' r' hq' hr' he => hunique q' r' hq' hr' ((hsum q' r' hq' hr').1 he), fun hlt => ?_,
    fun hdeg => ?_⟩
  · obtain ⟨hq0, hrp⟩ := hunique [0] p (h.isPoly_zero b) hp
      (by rw [hφ.toPolynomial_zero, zero_mul, zero_add]) (.inr hlt)
    exact ⟨hq0.symm, hrp.symm⟩
  · obtain ⟨hpoly, he⟩ := h.polyMul_inverse_constant hφ hp hd hdne hdeg
    obtain ⟨hqe, hr0⟩ := hunique _ [0] hpoly (h.isPoly_zero b)
      (by rw [he, hφ.toPolynomial_zero, add_zero]) (.inl rfl)
    exact ⟨hr0.symm, hqe.symm⟩

/-! ### Evaluation (R138) -/

section
variable {P N b : Nat}

/-- At 1 Horner's rule multiplies by 1 throughout. -/
theorem LegalField.foldl_horner_one (h : LegalField P N) {p : Poly} {r : Word}
    (hr : IsSymbol (builtField P N b) r) (hp : AreSymbols (builtField P N b) p) :
    p.foldl (fun r c => gfAdd (gfMul (builtField P N b) r 1) c) r = p.foldl (· ^^^ ·) r := by
  induction p generalizing r with
  | nil => rfl
  | cons c p ih =>
    obtain ⟨hc, hp⟩ := areSymbols_cons.1 hp
    rw [List.foldl_cons, List.foldl_cons, h.gfMul_one b hr]
    exact ih (h.isSymbol_gfAdd b hr hc) hp

variable {K : Type} [CommRing K] {φ : Word → K}

theorem LegalField.map_gfPower (h : LegalField P N) (hφ : IsFieldMap (builtField P N b) φ) {a : Word}
    (ha : IsSymbol (builtField P N b) a) (k : Nat) :
    IsSymbol (builtField P N b) (gfPower (builtField P N b) a k) ∧
      φ (gfPower (builtField P N b) a k) = φ a ^ k := by
  induction k with
  | zero => exact ⟨h.isSymbol_one b, by rw [pow_zero]; exact hφ.map_one⟩
  | succ k ih =>
    obtain ⟨hsym, hmap⟩ := ih
    have hstep : gfPower (builtField P N b) a (k + 1) =
        gfMul (builtField P N b) (gfPower (builtField P N b) a k) a := by
      rw [gfPower, List.replicate_succ', List.foldl_append]
      rfl
    rw [hstep, hφ.map_mul hsym ha, hmap, pow_succ]
    exact ⟨h.isSymbol_gfMul b hsym ha, rfl⟩

/-- A XOR over a range is a sum in `K`. -/
theorem LegalField.map_foldl_xor (h : LegalField P N) (hφ : IsFieldMap (builtField P N b) φ)
    {g : Nat → Word} (hg : ∀ k, IsSymbol (builtField P N b) (g k)) (n : Nat) :
    IsSymbol (builtField P N b) ((List.range n).foldl (fun acc k => acc ^^^ g k) 0) ∧
      φ ((List.range n).foldl (fun acc k => acc ^^^ g k) 0) = ∑ k ∈ Finset.range n, φ (g k) := by
  induction n with
  | zero => exact ⟨h.isSymbol_zero b, hφ.map_zero⟩
  | succ n ih =>
    obtain ⟨hsym, hmap⟩ := ih
    rw [List.range_succ, List.foldl_append, Finset.sum_range_succ, ← hmap]
    exact ⟨h.isSymbol_gfAdd b hsym (hg n), hφ.map_add hsym (hg n)⟩

/-- Horner's rule computes the sum of the terms. -/
theorem LegalField.polyEval_eq_foldl (h : LegalField P N) {p : Poly} {a : Word}
    (hp : IsPoly (builtField P N b) p) (ha : IsSymbol (builtField P N b) a) :
    polyEval (builtField P N b) p a =
      (List.range p.length).foldl (fun acc k => acc ^^^
        gfMul (builtField P N b) (coef p k) (gfPower (builtField P N b) a k)) 0 := by
  obtain ⟨K, _, _, φ, hφ⟩ := h.exists_isFieldMap_field b
  have hterm k : IsSymbol (builtField P N b)
      (gfMul (builtField P N b) (coef p k) (gfPower (builtField P N b) a k)) :=
    h.isSymbol_gfMul b (h.isSymbol_coef hp.2.1 k) (h.map_gfPower hφ ha k).1
  obtain ⟨hsym, hmap⟩ := h.map_foldl_xor hφ hterm p.length
  have hdegree : (toPolynomial φ p).natDegree < p.length := by
    rw [h.natDegree_toPolynomial hφ hp]
    exact Nat.sub_one_lt_of_lt (List.length_pos_iff.2 hp.1)
  refine hφ.injOn (h.isSymbol_polyEval ha hp.2.1) hsym ?_
  rw [hmap, h.map_polyEval hφ ha hp.2.1, eval_eq_sum_range' hdegree]
  refine Finset.sum_congr rfl fun k _ => ?_
  rw [hφ.map_mul (h.isSymbol_coef hp.2.1 k) (h.map_gfPower hφ ha k).1, hφ.map_coef,
    (h.map_gfPower hφ ha k).2]

end

/-- Settles O35: evaluation is that of `K[X]`. -/
theorem evaluationLaws : Obligations.EvaluationLaws := by
  unfold Obligations.EvaluationLaws
  rintro P N b h _ rfl p q a hp hq ha
  obtain ⟨K, _, φ, hφ⟩ := h.exists_isFieldMap b
  have hpa := h.isSymbol_polyEval ha hp.2.1
  have hqa := h.isSymbol_polyEval ha hq.2.1
  have hsum := (h.isPoly_polyAdd b hp hq).2.1
  have hprod := (h.isPoly_polyMul b hp hq).2.1
  have hzero := h.isSymbol_zero b
  refine ⟨hpa, h.polyEval_eq_foldl hp ha, ?_, h.foldl_horner_one hzero hp.2.1, ?_, ?_⟩
  · refine hφ.injOn (h.isSymbol_polyEval hzero hp.2.1) (h.isSymbol_coef hp.2.1 0) ?_
    rw [h.map_polyEval hφ hzero hp.2.1, hφ.map_coef, coeff_zero_eq_eval_zero, hφ.map_zero]
  · refine hφ.injOn (h.isSymbol_polyEval ha hsum) (h.isSymbol_gfAdd b hpa hqa) ?_
    rw [h.map_polyEval hφ ha hsum, h.toPolynomial_polyAdd hφ hp.2.1 hq.2.1, eval_add,
      ← h.map_polyEval hφ ha hp.2.1, ← h.map_polyEval hφ ha hq.2.1]
    exact (hφ.map_add hpa hqa).symm
  · refine hφ.injOn (h.isSymbol_polyEval ha hprod) (h.isSymbol_gfMul b hpa hqa) ?_
    rw [h.map_polyEval hφ ha hprod, h.toPolynomial_polyMul hφ hp hq, eval_mul,
      ← h.map_polyEval hφ ha hp.2.1, ← h.map_polyEval hφ ha hq.2.1, hφ.map_mul hpa hqa]

/-! ### The roots of the generator polynomial (R170) -/

theorem gfAdd_eq_zero_iff (x y : Word) : gfAdd x y = 0 ↔ x = y := BitVec.xor_eq_zero_iff

theorem LegalField.eval_genFactor_eq_zero_iff {P N b : Nat} (h : LegalField P N) {K : Type} [CommRing K]
    {φ : Word → K} (hφ : IsFieldMap (builtField P N b) φ) (d : Nat) {a : Word}
    (ha : IsSymbol (builtField P N b) a) :
    (toPolynomial φ (genFactor (builtField P N b) (d + 1))).eval (φ a) = 0 ↔
      a = alphaPow (builtField P N b) (d + b) := by
  have hα := h.isSymbol_alphaPow b (d + b)
  have hvalue : (toPolynomial φ (genFactor (builtField P N b) (d + 1))).eval (φ a) =
      φ (gfAdd a (alphaPow (builtField P N b) (d + b))) := by
    rw [hφ.map_add ha hα, genFactor, toPolynomial, toPolynomial_singleton, hφ.map_one]
    simp
  rw [hvalue, hφ.map_eq_zero_iff (h.isSymbol_zero b) (h.isSymbol_gfAdd b ha hα), gfAdd_eq_zero_iff]

theorem LegalField.eval_rsGenerator_eq_zero_iff {P N b : Nat} (h : LegalField P N) {K : Type} [Field K]
    {φ : Word → K} (hφ : IsFieldMap (builtField P N b) φ) (d : Nat) {a : Word}
    (ha : IsSymbol (builtField P N b) a) :
    (toPolynomial φ (rsGenerator (builtField P N b) d)).eval (φ a) = 0 ↔
      ∃ i, i < d ∧ a = alphaPow (builtField P N b) (i + b) := by
  induction d with
  | zero =>
    rw [rsGenerator, hφ.toPolynomial_one]
    simp
  | succ d ih =>
    rw [rsGenerator, h.toPolynomial_polyMul hφ (h.isPoly_rsGenerator b d) (h.isPoly_genFactor b _),
      eval_mul, mul_eq_zero, ih, h.eval_genFactor_eq_zero_iff hφ d ha]
    simp only [Nat.lt_succ_iff_lt_or_eq, or_and_right, exists_or, exists_eq_left]

/-- Settles O36: in a field a product vanishes exactly where a factor does. -/
theorem generatorShape : Obligations.GeneratorShape := by
  unfold Obligations.GeneratorShape
  rintro P N b h _ rfl d
  obtain ⟨hpoly, l, hl, -⟩ := h.rsGenerator_eq_cons b d
  refine ⟨rfl, rfl, hpoly, h.length_rsGenerator b d, by rw [hl]; rfl, fun a ha => ?_⟩
  obtain ⟨K, _, _, φ, hφ⟩ := h.exists_isFieldMap_field b
  rw [← h.eval_rsGenerator_eq_zero_iff hφ d ha, ← h.map_polyEval hφ ha hpoly.2.1,
    hφ.map_eq_zero_iff (h.isSymbol_zero b) (h.isSymbol_polyEval ha hpoly.2.1)]

end Sys2Proof.Machine
end

section
/-! PROOFS. The encoder instructions, the checks of the instructions that work on blocks, and `RSSYN`
(43_rs_encoder.md R171 to R175, 44_rs_decoder.md R180, R181, R186, R190, R192). -/

namespace Sys2Proof.Machine

/-! ### `RSGEN` and `PGEN` (R173, R174) -/

/-- Settles O37: both warm the cache to the degree, and the cache then holds generator polynomials. -/
theorem generatorInstructionResults : Obligations.GeneratorInstructionResults := by
  unfold Obligations.GeneratorInstructionResults
  intro s d a valid hcache
  refine ⟨fun hle => ?_, fun hlt => ?_⟩
  · have hentries : ∀ k, k ≤ (s.warmCache (s.readX a).toNat).genTop.toNat →
        (s.warmCache (s.readX a).toNat).cached k = rsGenerator s.gf k := fun k hk =>
      hcache.cached_warmCache valid (by rwa [warmCache_genTop s _ (by omega)] at hk)
    have htop := warmCache_genTop s (s.readX a).toNat (by omega)
    obtain ⟨c, g, hcg⟩ := exists_warmCache_eq s (s.readX a).toNat
    refine ⟨⟨(s.warmCache (s.readX a).toNat).advance, ?_, by rw [hcg]; rfl, htop, hentries⟩,
      ((s.warmCache (s.readX a).toNat).writeV d (rsGenerator s.gf (s.readX a).toNat)).advance, ?_,
      by rw [hcg]; rfl, htop, hentries⟩
    · rw [exec, execRsgen, requireGf_of_valid valid, requireLength_of_le (by omega)]
      rfl
    · rw [exec, execPgen, requireGf_of_valid valid, requireLength_of_le (by omega),
        hcache.genFetch_eq valid]
      rfl
  · rw [exec, execRsgen, exec, execPgen, requireGf_of_valid valid, requireLength_of_lt (by omega)]
    exact ⟨rfl, rfl⟩

/-! ### `RSENC` (R172, R175) -/

/-- The check symbols are the remainder, padded (R172). -/
theorem rsEncode_eq_ok {f : GF} {g data check : Poly} {ec : Nat}
    (h : rsEncode f g data ec = .ok check) :
    ∃ q rem, polyDivmod f (polyMul f (norm data) (1 :: zeros ec)) g = .ok (q, rem) ∧
      check = zeros (ec - rem.length) ++ rem := by
  obtain ⟨⟨q, rem⟩, hdivmod, hcheck⟩ := (bind_eq_ok _ _ _).1 h
  exact ⟨q, rem, hdivmod, (Except.ok.inj hcheck).symm⟩

/-- The meaning of `RSENC` with its abbreviations written out. -/
theorem exec_rsenc (a b c : XReg) (s : State) :
    exec (.rsenc a b c) s = complete s (do
      requireGf s
      if (s.readX c).toNat = 0 then raiseTrap .rsParam 1
      if (s.readX b).toNat = 0 then raiseTrap .rsParam 2
      requireRun (s.readX a).toNat ((s.readX b).toNat + (s.readX c).toNat)
      requireSyms s (s.readRun (s.readX a).toNat (s.readX b).toNat)
      let check ← rsEncode s.gf (s.genFetch (s.readX c).toNat)
        (s.readRun (s.readX a).toNat (s.readX b).toNat) (s.readX c).toNat
      return (s.warmCache (s.readX c).toNat).writeRun ((s.readX a).toNat + (s.readX b).toNat)
        check) := rfl

theorem exec_rsenc_eq {s : State} {a b c : XReg} {check : List Word} (valid : s.gfValid = true)
    (hn : (s.readX b).toNat ≠ 0) (hec : (s.readX c).toNat ≠ 0)
    (hfits : (s.readX a).toNat + ((s.readX b).toNat + (s.readX c).toNat) ≤ 4096)
    (hdata : ∀ w ∈ s.readRun (s.readX a).toNat (s.readX b).toNat, w.toNat < s.gfSize.toNat)
    (hcheck : rsEncode s.gf (s.genFetch (s.readX c).toNat)
      (s.readRun (s.readX a).toNat (s.readX b).toNat) (s.readX c).toNat = .ok check) :
    exec (.rsenc a b c) s = .next ((s.warmCache (s.readX c).toNat).writeRun
      ((s.readX a).toNat + (s.readX b).toNat) check).advance := by
  rw [exec_rsenc, requireGf_of_valid valid, if_neg hec, if_neg hn, requireRun_of_le hfits,
    requireSyms_of_forall hdata, hcheck]
  rfl

theorem forall_mem_readRun {s : State} {a0 n : Nat} {p : Word → Prop}
    (h : ∀ i, i < n → p (s.readDmem (a0 + i))) : ∀ w ∈ s.readRun a0 n, p w := by
  intro w hw
  obtain ⟨i, hi, rfl⟩ := (mem_readRun s a0 n w).1 hw
  exact h i hi

/-- Settles O38: on a built field with a right cache the division succeeds, and its remainder is no
longer than `ec`. -/
theorem rsencResults : Obligations.RsencResults := by
  unfold Obligations.RsencResults
  rintro s a b c _ _ _ valid hfield hcache rfl rfl rfl hn hec hfits hdata
  have hdata := forall_mem_readRun (p := fun w => w.toNat < s.gfSize.toNat) hdata
  obtain ⟨hlegal, hgf⟩ := hfield valid
  obtain ⟨check, hcheck, hlen, -⟩ := hlegal.exists_rsEncode (b := s.gfBase.toNat)
    (readRun_ne_nil (s := s) (a := (s.readX a).toNat) (Nat.ne_of_gt hn)) hdata (Nat.ne_of_gt hec)
  rw [← hgf, ← hcache.genFetch_eq valid] at hcheck
  obtain ⟨q, rem, hdivmod, hrem⟩ := rsEncode_eq_ok hcheck
  rw [hcache.genFetch_eq valid] at hdivmod
  have hremlen : rem.length ≤ (s.readX c).toNat := by
    rw [hrem, List.length_append, length_zeros] at hlen
    omega
  refine ⟨_, q, rem, hdivmod, hremlen, exec_rsenc_eq valid (Nat.ne_of_gt hn) (Nat.ne_of_gt hec)
    (by omega) hdata hcheck, ?_, ?_, fun k hk => ?_, fun k hk => ?_⟩
  · obtain ⟨g, top, hwarm⟩ := exists_warmCache_eq s (s.readX c).toNat
    obtain ⟨m, hm⟩ := exists_writeRun_eq { s with genCache := g, genTop := top }
      ((s.readX a).toNat + (s.readX b).toNat) check
    rw [hwarm, hm]
    rfl
  · rw [State.advance_genTop, sameButDmem_writeRun check (s.warmCache _)]
    exact warmCache_genTop s _ (by omega)
  · rw [State.advance_readDmem, State.readDmem_writeRun_inside check _ _ k (hlen ▸ hk),
      ← List.getD_eq_getElem check 0]
    exact congrArg (List.getD · k 0) hrem
  · rw [State.advance_readDmem, State.readDmem_writeRun_outside check _ _ _ (by omega), warmCache_eq]
    rfl

/-! ### The checks of blocks (R186, R190, R192) -/

section
variable {s : State} {a0 n R : Nat}

theorem requireSyms_append (l m : List Word) :
    requireSyms s (l ++ m) = (do requireSyms s l; requireSyms s m) := by
  induction l with
  | nil => rfl
  | cons w l ih =>
    rw [List.cons_append, requireSyms, requireSyms, ih]
    cases requireSym s w <;> rfl

theorem requireNonzero_of_mem {l : List Word} (h : 0 ∈ l) :
    requireNonzero l = .error ⟨.gfArith, 2⟩ := by
  induction l with
  | nil => cases h
  | cons w l ih =>
    rw [requireNonzero]
    by_cases hw : w = 0
    · rw [if_pos hw]
      rfl
    · rw [if_neg hw]
      exact ih (List.mem_of_ne_of_mem (Ne.symm hw) h)

theorem requireBlock_of_zero (valid : s.gfValid = true) (hn : n = 0) :
    requireBlock s a0 n R = .error ⟨.rsParam, 2⟩ := by
  rw [requireBlock, requireGf_of_valid valid, if_pos hn]
  rfl

theorem requireBlock_of_lt (valid : s.gfValid = true) (hn : n ≠ 0) (h : 4096 < a0 + n) :
    requireBlock s a0 n R = .error ⟨.dmemBounds, BitVec.ofNat 32 (max a0 4096)⟩ := by
  rw [requireBlock, requireGf_of_valid valid, if_neg hn, requireRun_of_lt h]
  rfl

theorem requireBlock_of_firstOutside (valid : s.gfValid = true) (hn : n ≠ 0) (h : a0 + n ≤ 4096)
    {w : Word} (hw : FirstOutside s.gfSize.toNat (s.readRun a0 n) w) :
    requireBlock s a0 n R = .error ⟨.operandRange, w.setWidth 32⟩ := by
  rw [requireBlock, requireGf_of_valid valid, if_neg hn, requireRun_of_le h,
    requireSyms_of_firstOutside hw]
  rfl

theorem requireBlock_of_long (valid : s.gfValid = true) (hn : n ≠ 0) (h : a0 + n ≤ 4096)
    (hsymbols : AreSymbols s.gf (s.readRun a0 n)) (hR : 4095 < R) :
    requireBlock s a0 n R = .error ⟨.vecOverflow, BitVec.ofNat 32 (R + 1)⟩ := by
  rw [requireBlock, requireGf_of_valid valid, if_neg hn, requireRun_of_le h,
    requireSyms_of_forall hsymbols, requireLength_of_lt (by omega)]
  rfl

theorem requireBlock_eq_ok_of (valid : s.gfValid = true) (hn : n ≠ 0) (h : a0 + n ≤ 4096)
    (hsymbols : AreSymbols s.gf (s.readRun a0 n)) (hR : R ≤ 4095) :
    requireBlock s a0 n R = .ok () :=
  (requireBlock_eq_ok s a0 n R).2 ⟨valid, hn, h, hsymbols, by omega⟩

/-- Where the checks of a block fail, `RSSYN` and `RSDEC` trap. -/
theorem exec_of_requireBlock_error {i : Instr} {dv : VReg} {dx a b c : XReg} {e : Trap}
    (hi : i ∈ [Instr.rssyn dv a b c, .rsdec dx a b c])
    (he : requireBlock s (s.readX a).toNat (s.readX b).toNat (s.readX c).toNat = .error e) :
    exec i s = .next (s.trap e) := by
  rw [List.mem_cons, List.mem_singleton] at hi
  obtain rfl | rfl := hi
  · rw [exec, execRssyn, he]
    rfl
  · refine exec_rsdec_of_plan_error ?_
    rw [rsdecPlan, he]
    rfl

theorem exec_of_requireCorrections_error {d a : VReg} {b c : XReg} {e : Trap}
    (he : requireCorrections s (s.readV d) (s.readV a) (s.readX b).toNat (s.readX c).toNat =
      .error e) : exec (.rscorr d a b c) s = .next (s.trap e) := by
  rw [exec, execRscorr, he]

/-- The parameter and bounds checks of `RSCORR`, passed. -/
theorem requireCorrections_of_block (valid : s.gfValid = true) {locs mags : List Word}
    (hlen : locs.length = mags.length) (hn : n ≠ 0) (h : a0 + n ≤ 4096) :
    requireCorrections s locs mags a0 n =
      (do requireSyms s (locs ++ mags); requireNonzero locs) := by
  rw [requireCorrections, requireGf_of_valid valid, if_neg (not_not_intro hlen), if_neg hn,
    requireRun_of_le h, requireSyms_append]
  cases requireSyms s locs <;> rfl

end

/-- Settles O40: each check in its order, those before it passed. -/
theorem blockCheckTraps : Obligations.BlockCheckTraps := by
  unfold Obligations.BlockCheckTraps
  rintro s dx a b c dv av _ _ _ valid rfl rfl rfl
  refine ⟨fun hk => ?_, fun hk hn => ?_, fun hk hn => ⟨fun hlt => ?_, fun hle w hw => ?_⟩,
    fun i hi => ⟨fun hn => ?_, fun hn hlt => ?_, fun hn hle => ⟨fun w hw => ?_, fun hsym hR => ?_⟩⟩,
    fun hlen => ?_, fun hlen => ⟨fun hn => ?_, fun hn hlt => ?_,
      fun hn hle => ⟨fun w hw => ?_, fun hlocs hmags hzero => ?_⟩⟩⟩
  · rw [exec_rsenc, requireGf_of_valid valid, if_pos hk]
    rfl
  · rw [exec_rsenc, requireGf_of_valid valid, if_neg hk, if_pos hn]
    rfl
  · rw [exec_rsenc, requireGf_of_valid valid, if_neg hk, if_neg hn,
      requireRun_of_lt (by omega)]
    rfl
  · rw [exec_rsenc, requireGf_of_valid valid, if_neg hk, if_neg hn,
      requireRun_of_le (by omega), requireSyms_of_firstOutside hw]
    rfl
  · exact exec_of_requireBlock_error hi (requireBlock_of_zero valid hn)
  · exact exec_of_requireBlock_error hi (requireBlock_of_lt valid hn hlt)
  · exact exec_of_requireBlock_error hi (requireBlock_of_firstOutside valid hn hle hw)
  · exact exec_of_requireBlock_error hi (requireBlock_of_long valid hn hle hsym hR)
  · refine exec_of_requireCorrections_error ?_
    rw [requireCorrections, requireGf_of_valid valid, if_pos hlen]
    rfl
  · refine exec_of_requireCorrections_error ?_
    rw [requireCorrections, requireGf_of_valid valid, if_neg (not_not_intro hlen), if_pos hn]
    rfl
  · refine exec_of_requireCorrections_error ?_
    rw [requireCorrections, requireGf_of_valid valid, if_neg (not_not_intro hlen), if_neg hn,
      requireRun_of_lt hlt]
    rfl
  · refine exec_of_requireCorrections_error ?_
    rw [requireCorrections_of_block valid hlen hn hle, requireSyms_of_firstOutside hw]
    rfl
  · refine exec_of_requireCorrections_error ?_
    rw [requireCorrections_of_block valid hlen hn hle,
      requireSyms_of_forall (List.forall_mem_append.2 ⟨hlocs, hmags⟩)]
    exact requireNonzero_of_mem hzero

/-! ### `RSSYN` (R180, R181) -/

theorem coef_zero_cons (p : Poly) (k : Nat) : coef (0 :: p) k = coef p k := by
  rw [coef_cons]
  split
  · next hk => rw [coef, if_neg (Nat.not_lt.2 hk.ge)]
  · rfl

theorem coef_norm (p : Poly) (k : Nat) : coef (norm p) k = coef p k := by
  by_cases hp : p = []
  · rw [hp]
    rfl
  obtain ⟨j, hj, -⟩ := eq_zeros_append_norm hp
  have happend : ∀ j, coef (zeros j ++ norm p) k = coef (norm p) k := fun j => by
    induction j with
    | zero => rfl
    | succ j ih => exact (coef_zero_cons _ k).trans ih
  rw [← happend j, ← hj]

theorem coef_synPoly (l : List Word) (i : Nat) : coef (synPoly l) i = l.getD i 0 := by
  rw [synPoly, coef_norm, coef_zero_cons, coef_eq_getD_reverse, List.reverse_reverse]

/-- Settles O41: the syndromes are the coefficients of the normalised list. -/
theorem rssynResults : Obligations.RssynResults := by
  unfold Obligations.RssynResults
  rintro s d a b c _ _ _ valid rfl rfl rfl hn hfits hR hblock
  have hpass := requireBlock_eq_ok_of valid (Nat.ne_of_gt hn) hfits (forall_mem_readRun hblock) hR
  obtain ⟨-, -, hne, hlead⟩ := eq_zeros_append_norm (List.cons_ne_nil 0
    (rsSyndromes s.gf (s.readRun (s.readX a).toNat (s.readX b).toNat) (s.readX c).toNat).reverse)
  refine ⟨synPoly (rsSyndromes s.gf (s.readRun (s.readX a).toNat (s.readX b).toNat)
    (s.readX c).toNat), ?_, fun i hi => ?_, fun i hi => ?_, hne, hlead⟩
  · rw [exec, execRssyn, hpass]
    rfl
  · rw [coef_synPoly, rsSyndromes, List.getD_eq_getElem _ _ (by simpa using hi), List.getElem_map,
      List.getElem_range]
    rfl
  · rw [coef_synPoly, List.getD_eq_default _ _ (by simpa [rsSyndromes] using hi)]

end Sys2Proof.Machine
end

section
/-! PROOFS. The Euclidean step for every syndrome polynomial, also one of degree `R` or more
(44_rs_decoder.md R182, R187): the loop keeps the key equation and the degree bound of its cofactors,
and ends before its passes run out. -/

namespace Sys2Proof.Machine

open Polynomial

/-! ### The stages in `K[X]` -/

section
variable {K : Type} [Field K] {S rLast r tLast t : K[X]} {R M : ℕ}

/-- What holds before every pass, whatever the degree of `S`: both remainders are congruent to a
multiple of `S` modulo `x^R`, and the degrees of the cofactors stay below `M`. -/
structure KeyStage (S : K[X]) (R M : ℕ) (rLast r tLast t : K[X]) : Prop where
  bezout_last : X ^ R ∣ tLast * S - rLast
  bezout : X ^ R ∣ t * S - r
  degree : t.natDegree + rLast.natDegree ≤ M
  degree_last : tLast.natDegree + r.natDegree ≤ M

theorem KeyStage.start (S : K[X]) (R : ℕ) :
    KeyStage S R (max R S.natDegree) (X ^ R) S 0 1 where
  bezout_last := by simp
  bezout := by simp
  degree := by simp
  degree_last := by simp

/-- A division raises no degree: the quotient is 0, or its degree is the difference. -/
theorem natDegree_of_division {a d q r' : K[X]} (hdiv : q * d + r' = a) (hr' : r'.degree < d.degree) :
    (q = 0 ∧ r' = a) ∨ (q.natDegree + d.natDegree = a.natDegree ∧ r'.natDegree ≤ a.natDegree) := by
  obtain rfl | hq := eq_or_ne q 0
  · exact .inl ⟨rfl, by rw [← hdiv, zero_mul, zero_add]⟩
  have hd : d ≠ 0 := degree_ne_bot.1 (bot_le.trans_lt hr').ne'
  have hlt : r'.degree < (q * d).degree := hr'.trans_le (by
    rw [mul_comm]
    exact degree_le_mul_left d hq)
  have hsum : a.natDegree = (q * d).natDegree := by
    rw [← hdiv, natDegree_add_eq_left_of_degree_lt hlt]
  refine .inr ⟨by rw [hsum, natDegree_mul hq hd], ?_⟩
  rw [hsum]
  exact natDegree_le_natDegree hlt.le

/-- A pass with quotient `q` and remainder `r'`. -/
theorem KeyStage.pass [CharP K 2] {q r' : K[X]} (h : KeyStage S R M rLast r tLast t)
    (hdiv : q * r + r' = rLast) (hr' : r'.degree < r.degree) :
    KeyStage S R M r r' t (q * t + tLast) := by
  have htwo : (2 : K[X]) = 0 := CharTwo.two_eq_zero
  obtain ⟨u, hu⟩ := h.bezout_last
  obtain ⟨v, hv⟩ := h.bezout
  have hdegree := h.degree
  have hlast := h.degree_last
  have hbezout : X ^ R ∣ (q * t + tLast) * S - r' :=
    ⟨q * v + u, by linear_combination q * hv + hu + q * r * htwo - hdiv⟩
  obtain ⟨rfl, rfl⟩ | ⟨hq, hle⟩ := natDegree_of_division hdiv hr'
  · exact ⟨h.bezout, hbezout, by rwa [zero_mul, zero_add], hdegree⟩
  · refine ⟨h.bezout, hbezout, ?_, by omega⟩
    have hadd := natDegree_add_le (q * t) tLast
    have hmul := natDegree_mul_le (p := q) (q := t)
    omega

end

/-! ### The loop on lists -/

section
variable {P N b : Nat} {K : Type} [Field K] [CharP K 2] {φ : Word → K}

/-- The loop of R182 stands at a stage for `S`. -/
structure KeyLists (f : GF) (φ : Word → K) (S : K[X]) (R M : ℕ) (rLast r tLast t : Poly) : Prop where
  isPoly_rLast : IsPoly f rLast
  isPoly_r : IsPoly f r
  isPoly_tLast : IsPoly f tLast
  isPoly_t : IsPoly f t
  stage : KeyStage S R M (toPolynomial φ rLast) (toPolynomial φ r) (toPolynomial φ tLast)
    (toPolynomial φ t)

omit [CharP K 2] in
theorem LegalField.keyLists_start (h : LegalField P N) (hφ : IsFieldMap (builtField P N b) φ)
    {syn : Poly} (hsyn : IsPoly (builtField P N b) syn) (R : ℕ) :
    KeyLists (builtField P N b) φ (toPolynomial φ syn) R (max R (deg syn)) (polyMono R 1) syn [0] [1]
    where
  isPoly_rLast := h.isPoly_polyMono b R (h.isSymbol_one b)
  isPoly_r := hsyn
  isPoly_tLast := h.isPoly_zero b
  isPoly_t := isPoly_constant (h.isSymbol_one b)
  stage := by
    rw [hφ.toPolynomial_polyMono, hφ.map_one, C_1, one_mul, hφ.toPolynomial_one,
      hφ.toPolynomial_zero, ← h.natDegree_toPolynomial hφ hsyn]
    exact .start _ R

/-- A pass on a remainder that is not zero. -/
theorem LegalField.keyLists_pass (h : LegalField P N) (hφ : IsFieldMap (builtField P N b) φ)
    {S : K[X]} {R M : ℕ} {rLast r tLast t : Poly}
    (hlists : KeyLists (builtField P N b) φ S R M rLast r tLast t) (hrne : isZero r = false) :
    ∃ q r', polyDivmod (builtField P N b) rLast r = .ok (q, r') ∧ (r' = [0] ∨ deg r' < deg r) ∧
      KeyLists (builtField P N b) φ S R M r r' t
        (polyAdd (polyMul (builtField P N b) q t) tLast) := by
  obtain ⟨hrLast, hr, htLast, ht, hstage⟩ := hlists
  obtain ⟨q, r', hdivmod, ⟨hq, hr', hid⟩, hshort⟩ := h.exists_polyDivmod hφ hrLast hr hrne
  have hne : r ≠ [0] := fun hzero => by rw [hzero] at hrne; cases hrne
  have hdeg : r' = [0] ∨ deg r' < deg r := hshort.imp_right fun hlt => by
    have := List.length_pos_of_ne_nil hr'.1
    unfold deg
    omega
  have hqt := h.isPoly_polyMul b hq ht
  refine ⟨q, r', hdivmod, hdeg, hr, hr', ht, h.isPoly_polyAdd b hqt htLast, ?_⟩
  rw [h.toPolynomial_polyAdd hφ hqt.2.1 htLast.2.1, h.toPolynomial_polyMul hφ hq ht]
  exact hstage.pass hid (h.degree_lt hφ hr' hr hne hdeg)

/-- The loop ends at a stage with a short remainder, or on a zero remainder with `RsEuclidZero`. -/
theorem LegalField.euclidLoop_cases (h : LegalField P N) (hφ : IsFieldMap (builtField P N b) φ)
    {S : K[X]} {R M fuel : ℕ} {rLast r tLast t : Poly}
    (hlists : KeyLists (builtField P N b) φ S R M rLast r tLast t)
    (hfuel : (r = [0] ∧ 1 ≤ fuel) ∨ deg r + 2 ≤ fuel) :
    euclidLoop (builtField P N b) R fuel rLast r tLast t = .error ⟨.rsEuclidZero, 0⟩ ∨
    ∃ rLast' r' tLast' t', euclidLoop (builtField P N b) R fuel rLast r tLast t = .ok (t', r') ∧
      KeyLists (builtField P N b) φ S R M rLast' r' tLast' t' ∧ 2 * deg r' < R := by
  induction fuel generalizing rLast r tLast t with
  | zero => omega
  | succ fuel ih =>
    by_cases hgo : R ≤ 2 * deg r
    · rw [euclidLoop, if_pos hgo]
      cases hzero : isZero r with
      | true => exact .inl rfl
      | false =>
        obtain ⟨q, r', hdivmod, hshort, hnext⟩ := h.keyLists_pass hφ hlists hzero
        have hne : r ≠ [0] := fun h0 => by rw [h0] at hzero; cases hzero
        have hfuel : deg r + 2 ≤ fuel + 1 := hfuel.resolve_left fun h0 => hne h0.1
        rw [if_neg Bool.false_ne_true, hdivmod]
        exact ih hnext (hshort.imp (fun h0 => ⟨h0, by omega⟩) fun hlt => by omega)
    · rw [euclidLoop, if_neg hgo]
      exact .inr ⟨rLast, r, tLast, t, rfl, hlists, Nat.lt_of_not_le hgo⟩

/-- What R182 answers when `R` is in range. -/
theorem LegalField.rsEuclid_cases (h : LegalField P N) (hφ : IsFieldMap (builtField P N b) φ)
    {syn : Poly} {R : ℕ} (hsyn : IsPoly (builtField P N b) syn) (hR : R ≤ 4095) :
    rsEuclid (builtField P N b) syn R = .error ⟨.rsEuclidZero, 0⟩ ∨
    ∃ rLast r tLast t,
      KeyLists (builtField P N b) φ (toPolynomial φ syn) R (max R (deg syn)) rLast r tLast t ∧
      2 * deg r < R ∧
      rsEuclid (builtField P N b) syn R =
        if coef t 0 = 0 then .error ⟨.rsSigmaZero, 0⟩
        else .ok (polyMul (builtField P N b) t [gfInv (builtField P N b) (coef t 0)],
          polyMul (builtField P N b) r [gfInv (builtField P N b) (coef t 0)]) := by
  have hlength : rsEuclid (builtField P N b) syn R =
      (do
        let (t, r) ← euclidLoop (builtField P N b) R (max R (deg syn) + 3) (polyMono R 1) syn [0] [1]
        if coef t 0 = 0 then raiseTrap .rsSigmaZero 0
        return (polyMul (builtField P N b) t [gfInv (builtField P N b) (coef t 0)],
          polyMul (builtField P N b) r [gfInv (builtField P N b) (coef t 0)])) := by
    rw [rsEuclid, if_neg (by unfold Config.vmax; omega)]
  rw [hlength]
  obtain hloop | ⟨rLast, r, tLast, t, hloop, hlists, hstop⟩ :=
    h.euclidLoop_cases (fuel := max R (deg syn) + 3) hφ (h.keyLists_start hφ hsyn R) (by omega)
  · exact .inl (by rw [hloop]; rfl)
  · refine .inr ⟨rLast, r, tLast, t, hlists, hstop, ?_⟩
    rw [hloop]
    simp only [pure_eq_ok, ok_bind]
    split <;> rfl

end

/-! ### What a success guarantees (R182) -/

section
variable {P N b : Nat} {K : Type} [Field K] {φ : Word → K}

/-- Scaling by an inverse keeps polynomials and bounds their degree. -/
theorem LegalField.deg_polyMul_constant_le (h : LegalField P N)
    (hφ : IsFieldMap (builtField P N b) φ) {p : Poly} {c : Word}
    (hp : IsPoly (builtField P N b) p) (hc : IsSymbol (builtField P N b) c) :
    IsPoly (builtField P N b) (polyMul (builtField P N b) p [c]) ∧
      toPolynomial φ (polyMul (builtField P N b) p [c]) = toPolynomial φ p * C (φ c) ∧
      deg (polyMul (builtField P N b) p [c]) ≤ deg p := by
  have hpoly := h.isPoly_polyMul b hp (isPoly_constant hc)
  have hmap : toPolynomial φ (polyMul (builtField P N b) p [c]) = toPolynomial φ p * C (φ c) := by
    rw [h.toPolynomial_polyMul hφ hp (isPoly_constant hc), toPolynomial_singleton]
  refine ⟨hpoly, hmap, ?_⟩
  rw [← h.natDegree_toPolynomial hφ hpoly, ← h.natDegree_toPolynomial hφ hp, hmap]
  exact natDegree_mul_C_le _ _

/-- A polynomial that `x^R` divides in `K[X]` is a multiple of `x^R` among the lists. -/
theorem LegalField.exists_eq_polyMul_monomial (h : LegalField P N)
    (hφ : IsFieldMap (builtField P N b) φ) {p : Poly} (hp : IsPoly (builtField P N b) p) {R : ℕ}
    (hdvd : X ^ R ∣ toPolynomial φ p) :
    ∃ u, IsPoly (builtField P N b) u ∧ p = polyMul (builtField P N b) u (1 :: zeros R) := by
  have hmono : IsPoly (builtField P N b) (1 :: zeros R) :=
    isPoly_cons (by decide) (h.isSymbol_one b) (h.areSymbols_zeros b R)
  have hmap : toPolynomial φ (1 :: zeros R) = X ^ R := by
    rw [toPolynomial, hφ.toPolynomial_zeros, hφ.map_one, length_zeros, C_1, one_mul, add_zero]
  obtain ⟨u, r, -, ⟨hu, hr, hid⟩, hshort⟩ := h.exists_polyDivmod hφ hp hmono (isZero_cons (by decide) _)
  have hlt : (toPolynomial φ r).degree < (X ^ R : K[X]).degree := by
    rw [← hmap]
    refine h.degree_lt hφ hr hmono (by cases R <;> simp [zeros]) (hshort.imp_right fun hlt => ?_)
    have := List.length_pos_of_ne_nil hr.1
    unfold deg
    omega
  have hzero : toPolynomial φ r = 0 := by
    refine eq_zero_of_dvd_of_degree_lt ?_ hlt
    rw [hmap] at hid
    exact (dvd_add_right (Dvd.intro_left _ rfl)).1 (hid ▸ hdvd)
  refine ⟨u, hu, h.isPoly_ext hφ hp (h.isPoly_polyMul b hu hmono) ?_⟩
  rw [h.toPolynomial_polyMul hφ hu hmono, ← hid, hzero, add_zero]

end

/-- Settles O43: the loop's last stage, scaled to constant term 1. -/
theorem keyEquation : Obligations.KeyEquation := by
  unfold Obligations.KeyEquation
  rintro P N b h _ rfl syn sigma omega R hsyn hok
  obtain ⟨K, _, _, φ, hφ⟩ := h.exists_isFieldMap_field b
  have hR : R ≤ 4095 := by
    by_contra hlong
    rw [rsEuclid, if_pos (show Config.vmax < R + 1 by unfold Config.vmax; omega)] at hok
    cases hok
  obtain herror | ⟨rLast, r, tLast, t, hlists, hstop, hresult⟩ := h.rsEuclid_cases hφ hsyn hR
  · rw [herror] at hok
    cases hok
  rw [hresult] at hok
  split at hok
  · cases hok
  next hne =>
  cases hok
  obtain ⟨-, hr, -, ht, -, ⟨v, hv⟩, hdegree, -⟩ := hlists
  have hcoef := h.isSymbol_coef ht.2.1 0
  have hinv := h.isSymbol_gfInv b hcoef
  obtain ⟨hsigma, hsigmaMap, hsigmaDeg⟩ := h.deg_polyMul_constant_le hφ ht hinv
  obtain ⟨homega, homegaMap, homegaDeg⟩ := h.deg_polyMul_constant_le hφ hr hinv
  have hproduct := h.isPoly_polyMul b hsigma hsyn
  refine ⟨hsigma, homega, ?_, by omega, ?_, ?_⟩
  · refine hφ.injOn (h.isSymbol_coef hsigma.2.1 0) (h.isSymbol_one b) ?_
    rw [hφ.map_coef, hsigmaMap, coeff_mul_C, ← hφ.map_coef, ← hφ.map_mul hcoef hinv,
      h.gfMul_gfInv b hcoef hne]
  · rw [h.natDegree_toPolynomial hφ ht] at hdegree
    omega
  · refine h.exists_eq_polyMul_monomial hφ (h.isPoly_polyAdd b hproduct homega) ?_
    rw [h.toPolynomial_polyAdd hφ hproduct.2.1 homega.2.1, h.toPolynomial_polyMul hφ hsigma hsyn,
      hsigmaMap, homegaMap, ← CharTwo.sub_eq_add]
    exact ⟨v * C (φ (gfInv (builtField P N b) (coef t 0))), by
      linear_combination C (φ (gfInv (builtField P N b) (coef t 0))) * hv⟩

end Sys2Proof.Machine
end

section
/-! PROOFS. `RSEUC`, `RSCHIEN` and `RSFORN` (44_rs_decoder.md R182 to R184, R187 to R189). -/

namespace Sys2Proof.Machine

/-! ### `RSEUC` (R187) -/

theorem exec_rseuc_of_error {s : State} {d e b : VReg} {c : XReg} {x : Trap}
    (valid : s.gfValid = true) (hb : s.HoldsPoly b)
    (hx : rsEuclid s.gf (norm (s.readV b)) (s.readX c).toNat = .error x) :
    exec (.rseuc d e b c) s = .next (s.trap x) := by
  rw [exec, execRseuc, requireGf_of_valid valid, readPoly_of_holdsPoly hb, ok_bind, ok_bind, hx]
  rfl

theorem exec_rseuc_of_ok {s : State} {d e b : VReg} {c : XReg} {sigma omega : Poly}
    (valid : s.gfValid = true) (hb : s.HoldsPoly b)
    (hok : rsEuclid s.gf (norm (s.readV b)) (s.readX c).toNat = .ok (sigma, omega)) :
    exec (.rseuc d e b c) s =
      .next { s with v := (s.v.set d.val sigma).set e.val omega, pc := s.pc + 1 } := by
  rw [exec, execRseuc, requireGf_of_valid valid, readPoly_of_holdsPoly hb, ok_bind, ok_bind, hok]
  rfl

theorem rsEuclid_of_long {f : GF} {syn : Poly} {R : Nat} (hR : 4095 < R) :
    rsEuclid f syn R = .error ⟨.vecOverflow, BitVec.ofNat 32 (R + 1)⟩ := by
  rw [rsEuclid, if_pos (show Config.vmax < R + 1 by unfold Config.vmax; omega)]
  rfl

section
variable {P N b : Nat}

theorem LegalField.gfInv_one (h : LegalField P N) : gfInv (builtField P N b) 1 = 1 := by
  have hone := h.isSymbol_one b
  have hinv := h.gfMul_gfInv b hone (by decide)
  rwa [gfMul_comm, h.gfMul_one b (h.isSymbol_gfInv b hone)] at hinv

theorem LegalField.polyMul_one (h : LegalField P N) {p : Poly} (hp : IsPoly (builtField P N b) p) :
    polyMul (builtField P N b) p [1] = p := by
  obtain ⟨K, _, φ, hφ⟩ := h.exists_isFieldMap b
  have hone := isPoly_constant (h.isSymbol_one b)
  refine h.isPoly_ext hφ (h.isPoly_polyMul b hp hone) hp ?_
  rw [h.toPolynomial_polyMul hφ hp hone, hφ.toPolynomial_one, mul_one]

/-- For the zero syndrome polynomial the loop makes no pass. -/
theorem LegalField.rsEuclid_zero (h : LegalField P N) {R : Nat} (hR : 1 ≤ R) (hR' : R ≤ 4095) :
    rsEuclid (builtField P N b) [0] R = .ok ([1], [0]) := by
  have hloop : ∀ fuel, euclidLoop (builtField P N b) R (fuel + 1) (polyMono R 1) [0] [0] [1] =
      .ok ([1], [0]) := fun fuel => if_neg (show ¬R ≤ 2 * 0 by omega)
  rw [rsEuclid, if_neg (by unfold Config.vmax; omega), hloop]
  refine Eq.trans (b := .ok (polyMul (builtField P N b) [1] [gfInv (builtField P N b) 1],
    polyMul (builtField P N b) [0] [gfInv (builtField P N b) 1])) rfl ?_
  rw [h.gfInv_one, h.polyMul_one (isPoly_constant (h.isSymbol_one b)),
    h.polyMul_one (h.isPoly_zero b)]

/-- Without a limit on the remainder the loop runs into a zero one. -/
theorem LegalField.rsEuclid_of_zero (h : LegalField P N) {syn : Poly}
    (hsyn : IsPoly (builtField P N b) syn) :
    rsEuclid (builtField P N b) syn 0 = .error ⟨.rsEuclidZero, 0⟩ := by
  obtain ⟨K, _, _, φ, hφ⟩ := h.exists_isFieldMap_field b
  refine (h.rsEuclid_cases hφ hsyn (Nat.zero_le _)).resolve_right ?_
  rintro ⟨rLast, r, tLast, t, -, hstop, -⟩
  exact Nat.not_lt_zero _ hstop

theorem LegalField.rsEuclid_error (h : LegalField P N) {syn : Poly} {R : Nat} {x : Trap}
    (hsyn : IsPoly (builtField P N b) syn) (hR : R ≤ 4095)
    (hx : rsEuclid (builtField P N b) syn R = .error x) :
    x = ⟨.rsEuclidZero, 0⟩ ∨ x = ⟨.rsSigmaZero, 0⟩ := by
  obtain ⟨K, _, _, φ, hφ⟩ := h.exists_isFieldMap_field b
  obtain herror | ⟨rLast, r, tLast, t, -, -, hresult⟩ := h.rsEuclid_cases hφ hsyn hR
  · exact .inl (Except.error.inj (hx.symm.trans herror))
  · rw [hresult] at hx
    split at hx
    · exact .inr (Except.error.inj hx).symm
    · cases hx

end

/-- Settles O42: on a built field the algorithm has two errors. -/
theorem rseucResults : Obligations.RseucResults := by
  unfold Obligations.RseucResults
  rintro s d e b c _ valid hfield hb rfl
  obtain ⟨hlegal, hgf⟩ := hfield valid
  have hsyn : IsPoly s.gf (norm (s.readV b)) := isPoly_norm hb.1 hb.2
  refine ⟨fun hlong => exec_rseuc_of_error valid hb (rsEuclid_of_long hlong),
    fun hR => ⟨fun sigma omega hok => exec_rseuc_of_ok valid hb hok, fun x hx => ⟨?_, exec_rseuc_of_error valid hb hx⟩,
      fun hzero hpos => exec_rseuc_of_ok valid hb ?_, fun hzero => exec_rseuc_of_error valid hb ?_⟩⟩
  · rw [hgf] at hsyn hx
    exact hlegal.rsEuclid_error hsyn hR hx
  · rw [hzero, hgf, hlegal.rsEuclid_zero hpos hR]
  · rw [hzero]
    rw [hgf] at hsyn ⊢
    exact hlegal.rsEuclid_of_zero hsyn

/-! ### `RSCHIEN` (R183, R188) -/

theorem chienSearch_eq (f : GF) (sigma : Poly) :
    chienSearch f sigma = ((List.range' 1 (f.size - 1)).filter fun i =>
      polyEval f sigma (BitVec.ofNat 16 i) == 0).map (fun i => gfInv f (BitVec.ofNat 16 i)) := by
  rw [chienSearch, nonzeroElements, List.filter_map, List.map_map]
  rfl

/-- Settles O44: the search of R183, with its meaning on a built field. -/
theorem rschienResults : Obligations.RschienResults := by
  unfold Obligations.RschienResults
  rintro s d a _ locs valid ha rfl hlocs
  obtain rfl : locs = chienSearch s.gf (norm (s.readV a)) := by rw [hlocs, chienSearch_eq]; rfl
  refine ⟨fun hlen => ?_, fun hlen => ?_, fun hfield => ?_⟩
  · rw [exec, execRschien, requireGf_of_valid valid, readPoly_of_holdsPoly ha, ok_bind, ok_bind,
      rsChien, if_neg (not_not_intro hlen)]
    rfl
  · rw [exec, execRschien, requireGf_of_valid valid, readPoly_of_holdsPoly ha, ok_bind, ok_bind,
      rsChien, if_pos hlen]
    rfl
  · obtain ⟨hlegal, hgf⟩ := hfield valid
    rw [hgf]
    exact ⟨hlegal.nodup_chienSearch _, fun x => hlegal.mem_chienSearch⟩

/-! ### `RSFORN` (R184, R189) -/

theorem map_getD_range (l : List Word) : (List.range l.length).map (fun j => l.getD j 0) = l := by
  refine List.ext_getElem (by simp) fun i _ hi => ?_
  rw [List.getElem_map, List.getElem_range, List.getD_eq_getElem l 0 hi]

theorem eraseIdx_eq_map_filter (l : List Word) (i : Nat) :
    l.eraseIdx i = ((List.range l.length).filter (· != i)).map fun j => l.getD j 0 := by
  induction l generalizing i with
  | nil => rfl
  | cons w l ih =>
    rw [List.length_cons, List.range_succ_eq_map]
    cases i with
    | zero =>
      rw [List.filter_cons_of_neg (by decide), List.filter_map,
        List.filter_eq_self.2 (fun j _ => by simp), List.map_map]
      exact (map_getD_range l).symm
    | succ i =>
      rw [List.filter_cons_of_pos (by simp), List.filter_map, List.map_cons, List.map_map,
        List.eraseIdx_cons_succ, ih]
      have hpred : ((· != i + 1) ∘ Nat.succ) = (· != i) := by
        funext j
        simp
      rw [hpred]
      rfl

/-- The product of R184 in its two forms. -/
theorem locatorProduct_eq (f : GF) (locs : List Word) (i : Nat) :
    locatorProduct f locs i =
      multiplyFactors f (gfInv f (locs.getD i 0)) (locs.eraseIdx i) 1 := by
  rw [eraseIdx_eq_map_filter, multiplyFactors, List.foldl_map]
  rfl

theorem map_magnitudeOf_eq (f : GF) (omega : Poly) {locs : List Word} (hnodup : locs.Nodup) :
    locs.map (magnitudeOf f omega locs) =
      (List.range locs.length).map (magnitudeAt f omega locs) := by
  refine List.ext_getElem (by simp) fun i hi _ => ?_
  rw [List.length_map] at hi
  rw [List.getElem_map, List.getElem_map, List.getElem_range, magnitudeOf, magnitudeAt,
    locatorProduct_eq, List.getD_eq_getElem locs 0 hi, hnodup.erase_getElem i hi]
  rfl

theorem forneyLoop_cases (f : GF) (omega : Poly) (locs : List Word) (i : Nat) (rest : List Word) :
    forneyLoop f omega locs i rest = .error ⟨.gfArith, 1⟩ ∨
    ∃ mags, forneyLoop f omega locs i rest = .ok mags ∧ mags.length = rest.length ∧
      ∀ k x, rest[k]? = some x → x ≠ 0 ∧ forneyDen f (i + k) (gfInv f x) 0 locs 1 ≠ 0 := by
  induction rest generalizing i with
  | nil => exact .inr ⟨[], rfl, rfl, fun k x hk => by cases hk⟩
  | cons loc rest ih =>
    rw [forneyLoop]
    by_cases hloc : loc = 0
    · rw [if_pos hloc]
      exact .inl rfl
    by_cases hden : forneyDen f i (gfInv f loc) 0 locs 1 = 0
    · rw [if_neg hloc, if_pos hden]
      exact .inl rfl
    rw [if_neg hloc, if_neg hden]
    obtain herror | ⟨mags, hmags, hlen, hrest⟩ := ih (i + 1)
    · exact .inl (by rw [herror]; rfl)
    · refine .inr ⟨_ :: mags, by rw [hmags]; rfl, congrArg Nat.succ hlen, fun k x hk => ?_⟩
      cases k with
      | zero =>
        obtain rfl := Option.some.inj hk
        exact ⟨hloc, hden⟩
      | succ k =>
        have := hrest k x hk
        rwa [Nat.add_right_comm] at this

/-- A location that occurs twice makes its own denominator vanish. -/
theorem LegalField.multiplyFactors_eq_zero {P N b : Nat} (h : LegalField P N) {l : List Word} {x : Word}
    (hl : AreSymbols (builtField P N b) l) (hx : x ∈ l) (hne : x ≠ 0) :
    multiplyFactors (builtField P N b) (gfInv (builtField P N b) x) l 1 = 0 := by
  obtain ⟨K, _, _, φ, hφ⟩ := h.exists_isFieldMap_field b
  obtain ⟨hsym, hmap⟩ := h.map_multiplyFactors hφ hl (h.isSymbol_gfInv b (hl x hx)) (h.isSymbol_one b)
  have hfactor : 1 + φ x * φ (gfInv (builtField P N b) x) = 0 := by
    rw [← hφ.map_mul (hl x hx) (h.isSymbol_gfInv b (hl x hx)), h.gfMul_gfInv b (hl x hx) hne,
      hφ.map_one]
    exact CharTwo.add_self_eq_zero 1
  have hprod : (l.map fun y => 1 + φ y * φ (gfInv (builtField P N b) x)).prod = 0 :=
    List.prod_eq_zero (List.mem_map.2 ⟨x, hx, hfactor⟩)
  rw [← hφ.map_eq_zero_iff (h.isSymbol_zero b) hsym, hmap, hprod, mul_zero]

/-- Zero or repeated locations stop the loop. -/
theorem LegalField.rsForney_of_bad {P N b : Nat} (h : LegalField P N) (omega : Poly) {locs : List Word}
    (hsym : AreSymbols (builtField P N b) locs) (hbad : ¬(0 ∉ locs ∧ locs.Nodup)) :
    rsForney (builtField P N b) omega locs = .error ⟨.gfArith, 1⟩ := by
  refine (forneyLoop_cases _ omega locs 0 locs).resolve_right ?_
  rintro ⟨mags, -, -, hgood⟩
  refine hbad ⟨fun hzero => ?_, List.nodup_iff_getElem?_ne_getElem?.2 fun i j hij hj heq => ?_⟩
  · obtain ⟨k, hk⟩ := List.mem_iff_getElem?.1 hzero
    exact (hgood k 0 hk).1 rfl
  · obtain ⟨hne, hden⟩ := hgood i _ (List.getElem?_eq_getElem (hij.trans hj))
    rw [forneyDen_add] at hden
    have hmem : locs[i] ∈ locs.eraseIdx i :=
      List.mem_eraseIdx_iff_getElem?.2 ⟨j, hij.ne', by rw [← heq, List.getElem?_eq_getElem]⟩
    exact hden (h.multiplyFactors_eq_zero (fun x hx => hsym x (List.mem_of_mem_eraseIdx hx)) hmem hne)

/-- Settles O45: on locations the loop's denominators do not vanish, on a repetition one does. -/
theorem rsfornResults : Obligations.RsfornResults := by
  unfold Obligations.RsfornResults
  rintro s d a b _ valid hfield ha rfl
  obtain ⟨hlegal, hgf⟩ := hfield valid
  refine ⟨fun hsym hzero hnodup => ?_, fun hsym hbad => ?_, fun w hw => ?_⟩
  · have hlocs : AreLocations (builtField s.gfPrim.toNat s.gfSize.toNat s.gfBase.toNat) (s.readV b) :=
      ⟨fun x hx => hsym x hx, fun x hx h0 => hzero (h0 ▸ hx), hnodup⟩
    have hforney := hlegal.rsForney_eq_ok (norm (s.readV a)) hlocs
    rw [← hgf, map_magnitudeOf_eq s.gf _ hnodup] at hforney
    rw [exec, execRsforn, requireGf_of_valid valid, readPoly_of_holdsPoly ha,
      requireSyms_of_forall hsym, ok_bind, ok_bind, ok_bind, hforney]
    rfl
  · have hforney : rsForney s.gf (norm (s.readV a)) (s.readV b) = .error ⟨.gfArith, 1⟩ := by
      rw [hgf] at hsym ⊢
      exact hlegal.rsForney_of_bad _ hsym hbad
    rw [exec, execRsforn, requireGf_of_valid valid, readPoly_of_holdsPoly ha,
      requireSyms_of_forall hsym, ok_bind, ok_bind, ok_bind, hforney]
    rfl
  · rw [exec, execRsforn, requireGf_of_valid valid, readPoly_of_holdsPoly ha,
      requireSyms_of_firstOutside hw]
    rfl

end Sys2Proof.Machine
end

section
/-! PROOFS. The corrections of `RSCORR` and `RSDEC` (44_rs_decoder.md R185, R190, R192). -/

namespace Sys2Proof.Machine

/-- Settles O46: with every location inside the block all corrections are made; the first one outside
it stops them. -/
theorem rscorrResults : Obligations.RscorrResults := by
  unfold Obligations.RscorrResults
  rintro s d a b c _ _ _ _ valid rfl rfl rfl rfl hlen hn hfits hlocs hmags hzero
  have hchecks : requireCorrections s (s.readV d) (s.readV a) (s.readX b).toNat (s.readX c).toNat =
      .ok () :=
    (requireCorrections_eq_ok ..).2 ⟨valid, hlen, Nat.ne_of_gt hn, hfits, hlocs, hmags, hzero⟩
  have hexec : exec (.rscorr d a b c) s = completeFrom
      (s.rsApply (s.readX b).toNat (s.readX c).toNat 0 (s.readV d) (s.readV a)) := by
    rw [exec, execRscorr, hchecks]
  obtain ⟨m, hm⟩ := exists_rsApply_eq s (s.readX b).toNat (s.readX c).toNat 0 (s.readV d) (s.readV a)
  refine ⟨fun hinside => ?_, fun k x hk hbad hbefore => ?_⟩
  · have hdone := rsApply_of_inside (s.readX b).toNat (s.readX c).toNat (mags := s.readV a) (i := 0)
      hinside
    refine ⟨_, hexec.trans ((completeFrom_eq_next _ _).2 (.inl ⟨hdone, rfl⟩)), ?_, fun addr =>
      readDmem_rsApply _ _ hdone addr⟩
    rw [hm]
    rfl
  · obtain ⟨hlt, -⟩ := List.getElem?_eq_some_iff.1 hk
    obtain ⟨htrap, hmem⟩ := rsApply_of_badLocation (a0 := (s.readX b).toNat) (i := 0) hk (hlen ▸ hlt) hbad hbefore
    rw [Nat.zero_add] at htrap
    refine ⟨_, hexec.trans ((completeFrom_eq_next _ _).2 (.inr ⟨_, htrap, rfl⟩)), ?_, hmem⟩
    rw [hm]
    rfl

/-- `RSDEC` stopped at a location outside the block. -/
theorem exec_rsdec_stopped {s : State} (d : XReg) {a b c : XReg} {locs mags : List Word} {k : Nat}
    {x : Word}
    (hplan : rsdecPlan s (s.readX a).toNat (s.readX b).toNat (s.readX c).toNat = .ok (locs, mags))
    (hlen : mags.length = locs.length) (hk : locs[k]? = some x)
    (hbad : (s.readX b).toNat - 1 < logAt s.gf x)
    (hbefore : ∀ y ∈ locs.take k, logAt s.gf y ≤ (s.readX b).toNat - 1) :
    ∃ t, exec (.rsdec d a b c) s = .next t ∧
      t = State.trap { s with dmem := t.dmem } ⟨.rsBadLocation, BitVec.ofNat 32 k⟩ ∧
      ∀ addr, t.readDmem addr = correctedWord s.gf (s.readX a).toNat (s.readX b).toNat
        ((locs.zip mags).take k) addr (s.readDmem addr) := by
  obtain ⟨hlt, -⟩ := List.getElem?_eq_some_iff.1 hk
  obtain ⟨htrap, hmem⟩ :=
    rsApply_of_badLocation (a0 := (s.readX a).toNat) (i := 0) hk (hlen ▸ hlt) hbad hbefore
  rw [Nat.zero_add] at htrap
  obtain ⟨m, hm⟩ := exists_rsApply_eq s (s.readX a).toNat (s.readX b).toNat 0 locs mags
  refine ⟨State.trap (s.rsApply (s.readX a).toNat (s.readX b).toNat 0 locs mags).1
    ⟨.rsBadLocation, BitVec.ofNat 32 k⟩, ?_, ?_, hmem⟩
  · rw [exec, execRsdec, hplan]
    simp only [withCount, htrap, completeFrom]
  · rw [hm]
    rfl

theorem length_rsForney {f : GF} {omega : Poly} {locs mags : List Word}
    (h : rsForney f omega locs = .ok mags) : mags.length = locs.length := by
  obtain herror | ⟨mags', hok, hlen, -⟩ := forneyLoop_cases f omega locs 0 locs
  · cases h.symm.trans herror
  · rw [Except.ok.inj (h.symm.trans hok), hlen]

/-- Steps 2 to 4 of R192, each passed. -/
theorem rsLocate_eq_ok {f : GF} {syndromes : List Word} {R : Nat} {sigma omega : Poly}
    {locs mags : List Word} (heuclid : rsEuclid f (synPoly syndromes) R = .ok (sigma, omega))
    (hchien : rsChien f sigma = .ok locs) (hforney : rsForney f omega locs = .ok mags) :
    rsLocate f syndromes R = .ok (locs, mags) :=
  (bind_eq_ok _ _ _).2 ⟨_, heuclid, (bind_eq_ok _ _ _).2 ⟨_, hchien,
    (bind_eq_ok _ _ _).2 ⟨_, hforney, rfl⟩⟩⟩

/-- Settles O47: the plan of R192 is made step by step, and carried out until a location is bad. -/
theorem rsdecResults : Obligations.RsdecResults := by
  unfold Obligations.RsdecResults
  rintro s d a b c _ _ _ valid rfl rfl rfl hn hfits hR hblock
  have hpass := requireBlock_eq_ok_of valid (Nat.ne_of_gt hn) hfits hblock hR
  refine ⟨exec_rsdec_of_syndromes_zero d hpass, ?_⟩
  rintro hnonzero _ rfl
  have hplan : rsdecPlan s (s.readX a).toNat (s.readX b).toNat (s.readX c).toNat =
      rsLocate s.gf (rsSyndromes s.gf (s.readRun (s.readX a).toNat (s.readX b).toNat)
        (s.readX c).toNat) (s.readX c).toNat := by
    rw [rsdecPlan_eq hpass, if_neg (mt (all_rsSyndromes_eq_true ..).1 hnonzero)]
  refine ⟨fun x hx => ?_, fun sigma omega heuclid => ⟨fun x hx => ?_, fun locs hchien =>
    ⟨fun x hx => ?_, fun mags hforney => ⟨fun hinside => ?_, fun k x hk hbad hbefore => ?_⟩⟩⟩⟩
  · exact exec_rsdec_of_plan_error (hplan.trans ((bind_eq_error _ _ _).2 (.inl hx)))
  · refine exec_rsdec_of_plan_error (hplan.trans ((bind_eq_error _ _ _).2 (.inr ⟨_, heuclid, ?_⟩)))
    exact (bind_eq_error _ _ _).2 (.inl hx)
  · refine exec_rsdec_of_plan_error (hplan.trans ((bind_eq_error _ _ _).2 (.inr ⟨_, heuclid, ?_⟩)))
    exact (bind_eq_error _ _ _).2 (.inr ⟨_, hchien, (bind_eq_error _ _ _).2 (.inl hx)⟩)
  · exact exec_rsdec_corrected d rfl rfl (hplan.trans (rsLocate_eq_ok heuclid hchien hforney))
      (rsApply_of_inside _ _ hinside)
  · exact exec_rsdec_stopped d (hplan.trans (rsLocate_eq_ok heuclid hchien hforney))
      (length_rsForney hforney) hk hbad hbefore

end Sys2Proof.Machine
end

section
/-! PROOFS. Which causes each instruction can raise and how long its vectors can get (60_exceptions.md
R222, 10_state.md R14): one specification per check and per function, and one pass over the
instructions that puts them together. -/

namespace Sys2Proof.Machine

/-! ### Results with given causes and a given property -/

/-- An error with one of the causes `cs`, or a value with the property `Q`. -/
def Yields {α : Type} (cs : List Cause) (Q : α → Prop) : Except Trap α → Prop
  | .ok a => Q a
  | .error e => e.cause ∈ cs

section
variable {α β : Type} {cs : List Cause} {Q : α → Prop}

theorem yields_of {r : Except Trap α} (he : ∀ e, r = .error e → e.cause ∈ cs)
    (ha : ∀ a, r = .ok a → Q a) : Yields cs Q r := by
  cases r with
  | ok a => exact ha a rfl
  | error e => exact he e rfl

theorem yields_raiseTrap {c : Cause} (hc : c ∈ cs) (n : Nat) : Yields cs Q (raiseTrap c n) := hc

theorem yields_bind {r : Except Trap α} {f : α → Except Trap β} {Q' : β → Prop} (hr : Yields cs Q r)
    (hf : ∀ a, Q a → Yields cs Q' (f a)) : Yields cs Q' (r >>= f) := by
  cases r with
  | ok a => exact hf a hr
  | error e => exact hr

/-- A test that raises `c`, and what follows where it does not hold. -/
theorem yields_guard {p : Prop} [Decidable p] {c : Cause} {n : Nat} {f : Unit → Except Trap α}
    (hc : c ∈ cs) (hf : ¬p → Yields cs Q (f ())) :
    Yields cs Q (if p then raiseTrap c n >>= f else f ()) := by
  split
  · exact hc
  · next hp => exact hf hp

end

/-! ### The shared checks -/

section
variable {cs : List Cause} {s : State}

theorem yields_requireGf (hc : .gfNotReady ∈ cs) :
    Yields cs (fun _ => s.gfValid = true) (requireGf s) := by
  refine yields_of (fun e he => ?_) fun _ ha => (requireGf_eq_ok s).1 ha
  obtain ⟨-, rfl⟩ := (requireGf_eq_error s e).1 he
  exact hc

theorem yields_requireSym (hc : .operandRange ∈ cs) (w : Word) :
    Yields cs (fun _ => w.toNat < s.gfSize.toNat) (requireSym s w) := by
  refine yields_of (fun e he => ?_) fun _ ha => (requireSym_eq_ok s w).1 ha
  obtain ⟨-, rfl⟩ := (requireSym_eq_error s w e).1 he
  exact hc

theorem yields_requireSyms (hc : .operandRange ∈ cs) (l : List Word) :
    Yields cs (fun _ => ∀ w ∈ l, w.toNat < s.gfSize.toNat) (requireSyms s l) := by
  refine yields_of (fun e he => ?_) fun _ ha => (requireSyms_eq_ok s l).1 ha
  obtain ⟨-, -, -, -, -, -, rfl⟩ := (requireSyms_eq_error s l e).1 he
  exact hc

theorem yields_readPoly (hempty : .polyEmpty ∈ cs) (hrange : .operandRange ∈ cs) (r : VReg) :
    Yields cs (fun p => s.HoldsPoly r ∧ p = norm (s.readV r)) (readPoly s r) := by
  refine yields_of (fun e he => ?_) fun p hp => ?_
  · obtain ⟨-, rfl⟩ | ⟨-, hsyms⟩ := (readPoly_eq_error s r e).1 he
    · exact hempty
    · obtain ⟨-, -, -, -, -, -, rfl⟩ := (requireSyms_eq_error s _ e).1 hsyms
      exact hrange
  · obtain ⟨hne, hsyms, rfl⟩ := (readPoly_eq_ok s r p).1 hp
    exact ⟨⟨hne, hsyms⟩, rfl⟩

theorem yields_requireWord (hc : .dmemBounds ∈ cs) (a : Nat) :
    Yields cs (fun _ => a < 4096) (requireWord a) :=
  yields_of (fun _ he => requireWord_cause he ▸ hc) fun _ ha => (requireWord_eq_ok a).1 ha

theorem yields_requireRun (hc : .dmemBounds ∈ cs) (a n : Nat) :
    Yields cs (fun _ => a + n ≤ 4096) (requireRun a n) :=
  yields_of (fun _ he => requireRun_cause he ▸ hc) fun _ ha => (requireRun_eq_ok a n).1 ha

theorem yields_requireLength (hc : .vecOverflow ∈ cs) (n : Nat) :
    Yields cs (fun _ => n ≤ 4096) (requireLength n) := by
  refine yields_of (fun e he => ?_) fun _ ha => (requireLength_eq_ok n).1 ha
  obtain ⟨-, rfl⟩ := (requireLength_eq_error n e).1 he
  exact hc

theorem yields_csrRead (hc : .csrAccess ∈ cs) (n : Nat) :
    Yields cs (fun _ => True) (csrRead s n) :=
  yields_of (fun _ he => csrRead_cause he ▸ hc) fun _ _ => trivial

theorem yields_gfConfigCheck (hc : .gfConfig ∈ cs) (prim size : Nat) :
    Yields cs (fun _ => True) (gfConfigCheck prim size) :=
  yields_of (fun _ he => gfConfigCheck_cause he ▸ hc) fun _ _ => trivial

theorem yields_requireBlock (hgf : .gfNotReady ∈ cs) (hparam : .rsParam ∈ cs)
    (hbounds : .dmemBounds ∈ cs) (hrange : .operandRange ∈ cs) (hlong : .vecOverflow ∈ cs)
    (a0 n R : Nat) : Yields cs (fun _ => R + 1 ≤ 4096) (requireBlock s a0 n R) :=
  yields_bind (yields_requireGf hgf) fun _ _ => yields_guard hparam fun _ =>
    yields_bind (yields_requireRun hbounds a0 n) fun _ _ =>
      yields_bind (yields_requireSyms hrange _) fun _ _ => yields_requireLength hlong (R + 1)

theorem yields_requireNonzero (hc : .gfArith ∈ cs) (l : List Word) :
    Yields cs (fun _ => True) (requireNonzero l) := by
  induction l with
  | nil => exact trivial
  | cons w l ih =>
    rw [requireNonzero]
    exact yields_guard (f := fun _ => requireNonzero l) hc fun _ => ih

theorem yields_requireCorrections (hgf : .gfNotReady ∈ cs) (hparam : .rsParam ∈ cs)
    (hbounds : .dmemBounds ∈ cs) (hrange : .operandRange ∈ cs) (harith : .gfArith ∈ cs)
    (locs mags : List Word) (a0 n : Nat) :
    Yields cs (fun _ => True) (requireCorrections s locs mags a0 n) :=
  yields_bind (yields_requireGf hgf) fun _ _ => yields_guard hparam fun _ =>
    yields_guard hparam fun _ => yields_bind (yields_requireRun hbounds a0 n) fun _ _ =>
      yields_bind (yields_requireSyms hrange locs) fun _ _ =>
        yields_bind (yields_requireSyms hrange mags) fun _ _ => yields_requireNonzero harith locs

end

/-! ### Lengths of results -/

theorem length_polyAdd_le {p q : Poly} (hp : p ≠ []) : (polyAdd p q).length ≤ max p.length q.length := by
  have hpad : (padTo q.length p).length = max p.length q.length := by rw [length_padTo, max_comm]
  have hpad' : (padTo p.length q).length = max p.length q.length := length_padTo q
  have hlen : (List.zipWith gfAdd (padTo q.length p) (padTo p.length q)).length =
      max p.length q.length := by rw [List.length_zipWith, hpad, hpad', min_self]
  have hpos := List.length_pos_of_ne_nil hp
  rw [← hlen]
  exact length_norm_le (List.ne_nil_of_length_pos (by omega))

theorem length_polyMul_le (f : GF) {p q : Poly} (hp : p ≠ []) (hq : q ≠ [])
    (hfits : isZero p = false → isZero q = false → p.length + q.length - 1 ≤ 4096) :
    (polyMul f p q).length ≤ 4096 := by
  rw [polyMul]
  split
  · decide
  · next hne =>
    rw [not_or, Bool.not_eq_true, Bool.not_eq_true] at hne
    rw [length_convolve f hp hq]
    exact hfits hne.1 hne.2

theorem length_le_of_deg {p : Poly} {n : Nat} (h : deg p < n) : p.length ≤ n := by
  unfold deg at h
  omega

section
variable {P N b : Nat}

theorem LegalField.length_divmod_le (h : LegalField P N) {p d q r : Poly}
    (hp : IsPoly (builtField P N b) p) (hd : IsPoly (builtField P N b) d)
    (hok : polyDivmod (builtField P N b) p d = .ok (q, r)) (hplen : p.length ≤ 4096)
    (hdlen : d.length ≤ 4096) : q.length ≤ 4096 ∧ r.length ≤ 4096 := by
  obtain ⟨K, _, _, φ, hφ⟩ := h.exists_isFieldMap_field b
  have hdne : d ≠ [0] := fun hzero => by
    rw [hzero] at hok
    cases hok
  obtain ⟨c, l, hcons, hc, -⟩ := hd.eq_zero_or_cons.resolve_left hdne
  obtain ⟨q', r', hok', ⟨hq, hr, hid⟩, hshort⟩ :=
    h.exists_polyDivmod hφ hp hd (by rw [hcons]; exact isZero_cons hc l)
  obtain ⟨rfl, rfl⟩ := Prod.mk.inj (Except.ok.inj (hok'.symm.trans hok))
  have hrdeg : r' = [0] ∨ deg r' < deg d := hshort.imp_right fun hlt => by
    have := List.length_pos_of_ne_nil hr.1
    unfold deg
    omega
  constructor
  · have hdeg : (toPolynomial φ q').natDegree ≤ (toPolynomial φ p).natDegree := by
      obtain ⟨hzero, -⟩ | ⟨hsum, -⟩ := natDegree_of_division hid (h.degree_lt hφ hr hd hdne hrdeg)
      · rw [hzero, Polynomial.natDegree_zero]
        exact Nat.zero_le _
      · omega
    rw [h.natDegree_toPolynomial hφ hq, h.natDegree_toPolynomial hφ hp] at hdeg
    have := List.length_pos_of_ne_nil hp.1
    unfold deg at hdeg
    omega
  · obtain rfl | hlt := hshort
    · decide
    · omega

theorem LegalField.length_rsEuclid_le (h : LegalField P N) {syn sigma omega : Poly} {R : Nat}
    (hsyn : IsPoly (builtField P N b) syn) (hlen : syn.length ≤ 4096)
    (hok : rsEuclid (builtField P N b) syn R = .ok (sigma, omega)) :
    sigma.length ≤ 4096 ∧ omega.length ≤ 4096 := by
  obtain ⟨-, -, -, homega, hsigma, -⟩ := keyEquation P N b h _ rfl syn sigma omega R hsyn hok
  have hR : R ≤ 4095 := by
    by_contra hlong
    rw [rsEuclid_of_long (by omega)] at hok
    cases hok
  have hsynlen := List.length_pos_of_ne_nil hsyn.1
  have hdeg : deg syn ≤ 4095 := by unfold deg; omega
  exact ⟨length_le_of_deg (by omega), length_le_of_deg (by omega)⟩

end

theorem length_synPoly_le (l : List Word) : (synPoly l).length ≤ l.length + 1 := by
  refine (length_norm_le (List.cons_ne_nil _ _)).trans ?_
  rw [List.length_cons, List.length_reverse]

/-! ### The functions that can fail -/

section
variable {cs : List Cause}

theorem yields_polyMonoChecked (hc : .vecOverflow ∈ cs) (d : Nat) (c : Word) :
    Yields cs (fun p => p.length ≤ 4096) (polyMonoChecked d c) := by
  rw [polyMonoChecked]
  split
  · exact hc
  · next hfits =>
    change (polyMono d c).length ≤ 4096
    rw [polyMono]
    split
    · decide
    · next hne =>
      rw [List.length_cons, length_zeros]
      exact Nat.le_of_not_lt fun hlong => hfits ⟨hne, hlong⟩

theorem yields_polyMulChecked (hc : .vecOverflow ∈ cs) (f : GF) {p q : Poly} (hp : p ≠ [])
    (hq : q ≠ []) : Yields cs (fun r => r.length ≤ 4096) (polyMulChecked f p q) := by
  rw [polyMulChecked]
  split
  · exact hc
  · next hfits =>
    exact length_polyMul_le f hp hq fun hpz hqz =>
      Nat.le_of_not_lt fun hlong => hfits ⟨hpz, hqz, hlong⟩

theorem yields_monomialProduct (hc : .vecOverflow ∈ cs) (s : State) (p : Poly) (k : Nat) (c : Word) :
    Yields cs (fun r => r.length ≤ 4096) (monomialProduct s p k c) := by
  rw [monomialProduct]
  split
  · exact (by decide : ([0] : Poly).length ≤ 4096)
  split
  · exact hc
  · next hfits =>
    change (p.map _ ++ zeros k).length ≤ 4096
    rw [List.length_append, List.length_map, length_zeros]
    exact Nat.le_of_not_lt hfits

theorem yields_polyDivmod (hc : .polyDivZero ∈ cs) (f : GF) (p q : Poly) :
    Yields cs (fun r => polyDivmod f p q = .ok r) (polyDivmod f p q) := by
  refine yields_of (fun e he => ?_) fun _ ha => ha
  rw [polyDivmod] at he
  split at he
  · exact (raiseTrap_eq_error _ _ _).1 he ▸ hc
  · cases he

theorem yields_rsChien (hc : .rsLocatorMismatch ∈ cs) (f : GF) (sigma : Poly) :
    Yields cs (fun locs => locs.length ≤ f.size - 1) (rsChien f sigma) := by
  rw [rsChien]
  split
  · exact hc
  · exact length_chienSearch_le f sigma

theorem yields_rsForney (hc : .gfArith ∈ cs) (f : GF) (omega : Poly) (locs : List Word) :
    Yields cs (fun mags => mags.length = locs.length) (rsForney f omega locs) := by
  refine yields_of (fun e he => ?_) fun _ ha => length_rsForney ha
  obtain herror | ⟨mags, hok, -⟩ := forneyLoop_cases f omega locs 0 locs
  · exact Except.error.inj (herror.symm.trans he) ▸ hc
  · cases he.symm.trans hok

theorem LegalField.yields_rsEuclid {P N b : Nat} (h : LegalField P N) (hlong : .vecOverflow ∈ cs)
    (hzero : .rsEuclidZero ∈ cs) (hsigma : .rsSigmaZero ∈ cs) {syn : Poly}
    (hsyn : IsPoly (builtField P N b) syn) (R : Nat) :
    Yields cs (fun r => rsEuclid (builtField P N b) syn R = .ok r)
      (rsEuclid (builtField P N b) syn R) := by
  refine yields_of (fun e he => ?_) fun _ ha => ha
  obtain hR | hR := Nat.lt_or_ge 4095 R
  · exact Except.error.inj ((rsEuclid_of_long hR).symm.trans he) ▸ hlong
  · obtain rfl | rfl := h.rsEuclid_error hsyn hR he
    · exact hzero
    · exact hsigma

end

/-! ### The states that instructions leave -/

/-- The run goes on, and vector registers that fit still do. -/
def State.GoesOn (s u : State) : Prop := u.runState = s.runState ∧ (s.VectorsFit → u.VectorsFit)

section
variable {s : State}

theorem State.VectorsFit.writeV {u : State} (h : u.VectorsFit) {d : VReg} {p : Poly}
    (hp : p.length ≤ 4096) : (u.writeV d p).VectorsFit := fun r => by
  by_cases hr : r = d
  · rw [hr, State.readV_writeV_same]
    exact hp
  · rw [State.readV_writeV_ne _ _ _ _ hr]
    exact h r

theorem goesOn_writeX (d : XReg) (w : Word) : s.GoesOn (s.writeX d w) := ⟨rfl, id⟩

theorem goesOn_writeV {d : VReg} {p : Poly} (hp : s.VectorsFit → p.length ≤ 4096) :
    s.GoesOn (s.writeV d p) := ⟨rfl, fun hs => hs.writeV (hp hs)⟩

theorem goesOn_writeRun (a : Nat) (l : List Word) : s.GoesOn (s.writeRun a l) := by
  obtain ⟨m, hm⟩ := exists_writeRun_eq s a l
  rw [hm]
  exact ⟨rfl, id⟩

theorem goesOn_warmCache (d : Nat) : s.GoesOn (s.warmCache d) := by
  rw [warmCache_eq]
  exact ⟨rfl, id⟩

theorem State.GoesOn.trans {u w : State} (h : s.GoesOn u) (k : u.GoesOn w) : s.GoesOn w :=
  ⟨k.1.trans h.1, fun hs => k.2 (h.2 hs)⟩

theorem goesOn_buildField : s.GoesOn s.buildField :=
  ⟨rfl, fun _ r => by rw [State.readV_buildField]; exact Nat.zero_le _⟩

theorem goesOn_writeFieldCsr {u : State} {n : Nat} {d : Word32} (h : s.writeFieldCsr n d = some u) :
    s.GoesOn u := by
  obtain ⟨-, rfl⟩ | ⟨-, rfl⟩ | ⟨-, rfl⟩ := (writeFieldCsr_eq_some ..).1 h <;> exact ⟨rfl, id⟩

theorem State.VectorsFit.norm_le (hs : s.VectorsFit) {r : VReg} (hr : s.HoldsPoly r) :
    (norm (s.readV r)).length ≤ 4096 := (length_norm_le hr.1).trans (hs r)

/-- While `VALID = 1` a source is a polynomial over the built field. -/
theorem State.HoldsPoly.isPoly {r : VReg} (hr : s.HoldsPoly r) : IsPoly s.gf (norm (s.readV r)) :=
  isPoly_norm hr.1 hr.2

theorem norm_ne_nil {l : Poly} (hl : l ≠ []) : norm l ≠ [] := by
  obtain ⟨-, -, hne, -⟩ := eq_zeros_append_norm hl
  exact hne

end

/-! ### The host writes no vector register (R47) -/

theorem HostEffect.vectorsFit {s t : State} {e : HostEvent} (h : HostEffect s e t)
    (hs : s.VectorsFit) : t.VectorsFit := by
  cases h with
  | hardReset =>
    intro r
    rw [(State.hardReset_engineReset s).readV]
    exact Nat.zero_le _
  | softReset =>
    intro r
    change (s.softReset.readV r).length ≤ _
    rw [(State.softReset_engineReset s).readV]
    exact Nat.zero_le _
  | ctrl h d stopped _ bit =>
    rw [writeCtrl_eq stopped bit]
    exact hs
  | fieldCsr h d t _ _ k =>
    rw [k]
    exact hs
  | reply | dmem | imem | scalar | entry => exact hs

/-! ### One pass over the instructions -/

/-- The result of the checks and functions of an instruction that ends in `complete`. -/
def Completes (i : Instr) (s : State) : Prop :=
  ∃ r, exec i s = complete s r ∧ Yields (mayRaise i) s.GoesOn r

section
variable {s : State} {i : Instr}

/-- The sequencer, memory and raw vector instructions. -/
theorem completes_of_not_needsField (hi : needsField i = false) (hhalt : i ≠ .halt)
    (htransfer : transferTarget i = none) : Completes i s := by
  cases i with
  | nop => exact ⟨.ok s, rfl, rfl, id⟩
  | li | mov | add | sub | addi | vlen => exact ⟨.ok (s.writeX _ _), rfl, goesOn_writeX _ _⟩
  | vmov d a => exact ⟨.ok (s.writeV _ _), rfl, goesOn_writeV fun hs => hs a⟩
  | ldw =>
    refine ⟨_, rfl, yields_bind (yields_requireWord (by simp [mayRaise]) _) fun _ _ => ?_⟩
    exact goesOn_writeX _ _
  | stw =>
    refine ⟨_, rfl, yields_bind (yields_requireWord (by simp [mayRaise]) _) fun _ _ => ?_⟩
    exact ⟨rfl, id⟩
  | csrr =>
    refine ⟨_, rfl, yields_bind (yields_csrRead (by simp [mayRaise]) _) fun _ _ => ?_⟩
    exact goesOn_writeX _ _
  | csrw a csr =>
    refine ⟨_, rfl, ?_⟩
    split
    · next hu => exact goesOn_writeFieldCsr hu
    · exact yields_raiseTrap (by simp [mayRaise]) _
  | gfinit =>
    refine ⟨_, rfl, yields_bind (yields_gfConfigCheck (by simp [mayRaise]) _ _) fun _ _ => ?_⟩
    exact goesOn_buildField
  | vld d a b =>
    refine ⟨_, rfl, yields_bind (yields_requireRun (by simp [mayRaise]) _ _) fun _ hrun => ?_⟩
    exact goesOn_writeV fun _ => by rw [readRun_length]; omega
  | vst =>
    refine ⟨_, rfl, yields_bind (yields_requireRun (by simp [mayRaise]) _ _) fun _ _ => ?_⟩
    exact goesOn_writeRun _ _
  | vget d a b =>
    refine ⟨_, rfl, ?_⟩
    split
    · exact yields_raiseTrap (by simp [mayRaise]) _
    · exact goesOn_writeX _ _
  | halt => exact absurd rfl hhalt
  | jmp | beq | bne | bltu => cases htransfer
  | _ => cases hi

/-- The instructions on field elements. -/
theorem completes_gf {d a b : XReg}
    (hi : i ∈ [Instr.gfadd d a b, .gfmul d a b, .gfinv d a, .gfexp d a, .gflog d a]) :
    Completes i s := by
  simp only [List.mem_cons, List.not_mem_nil, or_false] at hi
  obtain rfl | rfl | rfl | rfl | rfl := hi
  case inl | inr.inl =>
    refine ⟨_, rfl, yields_bind (yields_requireGf (by simp [mayRaise])) fun _ _ =>
      yields_bind (yields_requireSym (by simp [mayRaise]) _) fun _ _ =>
        yields_bind (yields_requireSym (by simp [mayRaise]) _) fun _ _ => ?_⟩
    exact goesOn_writeX _ _
  case inr.inr.inr.inl =>
    refine ⟨_, rfl, yields_bind (yields_requireGf (by simp [mayRaise])) fun _ _ =>
      yields_bind (yields_requireSym (by simp [mayRaise]) _) fun _ _ => ?_⟩
    exact goesOn_writeX _ _
  case inr.inr.inl | inr.inr.inr.inr =>
    refine ⟨_, rfl, yields_bind (yields_requireGf (by simp [mayRaise])) fun _ _ =>
      yields_bind (yields_requireSym (by simp [mayRaise]) _) fun _ _ =>
        yields_guard (by simp [mayRaise]) fun _ => ?_⟩
    exact goesOn_writeX _ _

/-- The instructions with a first polynomial source and a rest `k`. -/
theorem completes_of_source {a : VReg} {k : Poly → Except Trap State}
    (he : exec i s = complete s (do requireGf s; readPoly s a >>= k))
    (hgf : .gfNotReady ∈ mayRaise i) (hempty : .polyEmpty ∈ mayRaise i)
    (hrange : .operandRange ∈ mayRaise i)
    (hk : s.gfValid = true → s.HoldsPoly a →
      Yields (mayRaise i) s.GoesOn (k (norm (s.readV a)))) : Completes i s :=
  ⟨_, he, yields_bind (yields_requireGf hgf) fun _ valid =>
    yields_bind (yields_readPoly hempty hrange a) fun _ ⟨ha, hp⟩ => hp ▸ hk valid ha⟩

theorem completes_pnorm (d a : VReg) : Completes (.pnorm d a) s :=
  completes_of_source rfl (by simp [mayRaise]) (by simp [mayRaise]) (by simp [mayRaise]) fun _ ha =>
    goesOn_writeV fun hs => hs.norm_le ha

theorem completes_pdeg (d : XReg) (a : VReg) : Completes (.pdeg d a) s :=
  completes_of_source rfl (by simp [mayRaise]) (by simp [mayRaise]) (by simp [mayRaise]) fun _ _ =>
    goesOn_writeX _ _

theorem completes_pcoef (d : XReg) (a : VReg) (b : XReg) : Completes (.pcoef d a b) s :=
  completes_of_source rfl (by simp [mayRaise]) (by simp [mayRaise]) (by simp [mayRaise]) fun _ _ =>
    goesOn_writeX _ _

theorem completes_pisz (d : XReg) (a : VReg) : Completes (.pisz d a) s :=
  completes_of_source rfl (by simp [mayRaise]) (by simp [mayRaise]) (by simp [mayRaise]) fun _ _ =>
    goesOn_writeX _ _

theorem completes_peval (d : XReg) (a : VReg) (b : XReg) : Completes (.peval d a b) s :=
  completes_of_source rfl (by simp [mayRaise]) (by simp [mayRaise]) (by simp [mayRaise]) fun _ _ =>
    yields_bind (yields_requireSym (by simp [mayRaise]) _) fun _ _ => goesOn_writeX _ _

theorem completes_pmono (d : VReg) (a b : XReg) : Completes (.pmono d a b) s := by
  refine ⟨_, rfl, yields_bind (yields_requireGf (by simp [mayRaise])) fun _ _ =>
    yields_bind (yields_requireSym (by simp [mayRaise]) _) fun _ _ =>
      yields_bind (yields_polyMonoChecked (by simp [mayRaise]) _ _) fun p hp => ?_⟩
  exact goesOn_writeV fun _ => hp

theorem completes_pscale (d a : VReg) (b : XReg) : Completes (.pscale d a b) s :=
  completes_of_source rfl (by simp [mayRaise]) (by simp [mayRaise]) (by simp [mayRaise]) fun _ ha =>
    yields_bind (yields_requireSym (by simp [mayRaise]) _) fun _ _ => goesOn_writeV fun hs => by
      rw [polyMul_constant s.gf ha.1]
      split
      · decide
      · rw [List.length_map]
        exact hs.norm_le ha

theorem completes_pmulm (d a : VReg) (b c : XReg) : Completes (.pmulm d a b c) s :=
  completes_of_source rfl (by simp [mayRaise]) (by simp [mayRaise]) (by simp [mayRaise]) fun _ _ =>
    yields_bind (yields_requireSym (by simp [mayRaise]) _) fun _ _ =>
      yields_bind (yields_monomialProduct (by simp [mayRaise]) s _ _ _) fun _ hr =>
        goesOn_writeV fun _ => hr

theorem completes_padd (d a b : VReg) : Completes (.padd d a b) s :=
  completes_of_source rfl (by simp [mayRaise]) (by simp [mayRaise]) (by simp [mayRaise]) fun _ ha =>
    yields_bind (yields_readPoly (by simp [mayRaise]) (by simp [mayRaise]) b) fun _ ⟨hb, hq⟩ =>
      goesOn_writeV fun hs => by
        rw [hq]
        exact (length_polyAdd_le (norm_ne_nil ha.1)).trans
          (max_le (hs.norm_le ha) (hs.norm_le hb))

theorem completes_pmul (d a b : VReg) : Completes (.pmul d a b) s :=
  completes_of_source rfl (by simp [mayRaise]) (by simp [mayRaise]) (by simp [mayRaise]) fun _ ha =>
    yields_bind (yields_readPoly (by simp [mayRaise]) (by simp [mayRaise]) b) fun _ ⟨hb, hq⟩ => by
      rw [hq]
      exact yields_bind (yields_polyMulChecked (by simp [mayRaise]) s.gf (norm_ne_nil ha.1)
        (norm_ne_nil hb.1)) fun _ hr => goesOn_writeV fun _ => hr

theorem completes_pdiv (d a b c : VReg) (hfield : s.FieldBuilt) : Completes (.pdiv d a b c) s :=
  completes_of_source rfl (by simp [mayRaise]) (by simp [mayRaise]) (by simp [mayRaise])
    fun valid hb => yields_bind (yields_readPoly (by simp [mayRaise]) (by simp [mayRaise]) c)
      fun _ ⟨hc, hq⟩ => by
        rw [hq]
        refine yields_bind (yields_polyDivmod (by simp [mayRaise]) _ _ _) fun ⟨quo, rem⟩ hok => ?_
        refine ⟨rfl, fun hs => ?_⟩
        obtain ⟨hlegal, hgf⟩ := hfield valid
        have hp := hb.isPoly
        have hq := hc.isPoly
        rw [hgf] at hp hq hok
        obtain ⟨hquo, hrem⟩ := hlegal.length_divmod_le hp hq hok (hs.norm_le hb) (hs.norm_le hc)
        exact (hs.writeV hquo).writeV hrem

theorem completes_rsgen (a : XReg) : Completes (.rsgen a) s := by
  refine ⟨_, rfl, yields_bind (yields_requireGf (by simp [mayRaise])) fun _ _ =>
    yields_bind (yields_requireLength (by simp [mayRaise]) _) fun _ _ => ?_⟩
  exact goesOn_warmCache _

theorem completes_pgen (d : VReg) (a : XReg) (hfield : s.FieldBuilt) (hcache : s.CacheBuilt) :
    Completes (.pgen d a) s := by
  refine ⟨_, rfl, yields_bind (yields_requireGf (by simp [mayRaise])) fun _ valid =>
    yields_bind (yields_requireLength (by simp [mayRaise]) _) fun _ hlen => ?_⟩
  refine (goesOn_warmCache _).trans (goesOn_writeV fun _ => ?_)
  obtain ⟨hlegal, hgf⟩ := hfield valid
  rw [hcache.genFetch_eq valid, hgf, hlegal.length_rsGenerator]
  exact hlen

theorem completes_rsenc (a b c : XReg) (hfield : s.FieldBuilt) (hcache : s.CacheBuilt) :
    Completes (.rsenc a b c) s := by
  refine ⟨_, exec_rsenc a b c s, yields_bind (yields_requireGf (by simp [mayRaise])) fun _ valid =>
    yields_guard (by simp [mayRaise]) fun hec => yields_guard (by simp [mayRaise]) fun hn =>
      yields_bind (yields_requireRun (by simp [mayRaise]) _ _) fun _ _ =>
        yields_bind (yields_requireSyms (by simp [mayRaise]) _) fun _ hdata => ?_⟩
  obtain ⟨hlegal, hgf⟩ := hfield valid
  obtain ⟨check, hcheck, -⟩ := hlegal.exists_rsEncode (b := s.gfBase.toNat)
    (readRun_ne_nil (s := s) (a := (s.readX a).toNat) hn) hdata hec
  rw [← hgf, ← hcache.genFetch_eq valid] at hcheck
  rw [hcheck]
  exact (goesOn_warmCache _).trans (goesOn_writeRun _ _)

theorem completes_rssyn (d : VReg) (a b c : XReg) : Completes (.rssyn d a b c) s := by
  refine ⟨_, rfl, yields_bind (yields_requireBlock (by simp [mayRaise]) (by simp [mayRaise])
    (by simp [mayRaise]) (by simp [mayRaise]) (by simp [mayRaise]) _ _ _) fun _ hR => ?_⟩
  refine goesOn_writeV fun _ => (length_synPoly_le _).trans ?_
  rw [rsSyndromes, List.length_map, List.length_range]
  exact hR

theorem completes_rseuc (d a b : VReg) (c : XReg) (hfield : s.FieldBuilt) :
    Completes (.rseuc d a b c) s := by
  refine completes_of_source rfl (by simp [mayRaise]) (by simp [mayRaise]) (by simp [mayRaise])
    fun valid hb => ?_
  obtain ⟨hlegal, hgf⟩ := hfield valid
  have hsyn := hb.isPoly
  rw [hgf] at hsyn ⊢
  refine yields_bind (hlegal.yields_rsEuclid (by simp [mayRaise]) (by simp [mayRaise])
    (by simp [mayRaise]) hsyn _) fun ⟨sigma, omega⟩ hok => ⟨rfl, fun hs => ?_⟩
  obtain ⟨hsigma, homega⟩ := hlegal.length_rsEuclid_le hsyn (hs.norm_le hb) hok
  exact (hs.writeV hsigma).writeV homega

theorem completes_rschien (d a : VReg) (hfield : s.FieldBuilt) : Completes (.rschien d a) s :=
  completes_of_source rfl (by simp [mayRaise]) (by simp [mayRaise]) (by simp [mayRaise])
    fun valid _ => yields_bind (yields_rsChien (by simp [mayRaise]) _ _) fun locs hlen =>
      goesOn_writeV fun _ => by
        have hsize : s.gf.size ≤ 4096 := (hfield valid).1.le_4096
        omega

theorem completes_rsforn (d a b : VReg) : Completes (.rsforn d a b) s :=
  completes_of_source rfl (by simp [mayRaise]) (by simp [mayRaise]) (by simp [mayRaise]) fun _ _ =>
    yields_bind (yields_requireSyms (by simp [mayRaise]) _) fun _ _ =>
      yields_bind (yields_rsForney (by simp [mayRaise]) _ _ _) fun _ hlen =>
        goesOn_writeV fun hs => hlen.trans_le (hs b)

end

/-! ### The statements -/

/-- Where the outcome is a fault, its cause is one of `cs`. -/
def CausesAmong (cs : List Cause) (o : Host.Outcome State Fault Refusal) : Prop :=
  ∀ t, o = .next t → t.runState = .faulted → ∃ c ∈ cs, t.cause = causeCode c

section
variable {cs : List Cause} {s u : State} {i : Instr}

theorem causesAmong_next (hu : u.runState ≠ .faulted) : CausesAmong cs (.next u) := by
  rintro _ ⟨rfl⟩ hfault
  exact absurd hfault hu

theorem causesAmong_trap {e : Trap} (he : e.cause ∈ cs) : CausesAmong cs (.next (s.trap e)) := by
  rintro _ ⟨rfl⟩ -
  exact ⟨e.cause, he, rfl⟩

theorem causesAmong_completeFrom {r : State × Option Trap} (hrun : r.1.runState ≠ .faulted)
    (htrap : ∀ e, r.2 = some e → e.cause ∈ cs) : CausesAmong cs (completeFrom r) := by
  obtain ⟨u, _ | e⟩ := r
  · exact causesAmong_next (u := u.advance) hrun
  · exact causesAmong_trap (htrap e rfl)

theorem Completes.causesAmong (h : Completes i s) (running : s.runState ≠ .faulted) :
    CausesAmong (mayRaise i) (exec i s) := by
  obtain ⟨r, hr, hyields⟩ := h
  rw [hr]
  cases r with
  | ok u => exact causesAmong_next (u := u.advance) (hyields.1.trans_ne running)
  | error e => exact causesAmong_trap hyields

theorem Completes.vectorsFit {t : State} (h : Completes i s) (hs : s.VectorsFit)
    (ht : exec i s = .next t) : t.VectorsFit := by
  obtain ⟨r, hr, hyields⟩ := h
  rw [hr] at ht
  cases r with
  | ok u =>
    cases ht
    exact hyields.2 hs
  | error e =>
    cases ht
    exact hs

theorem rsApply_runState (s : State) (a0 n i : Nat) (locs mags : List Word) :
    (s.rsApply a0 n i locs mags).1.runState = s.runState := by
  rw [sameButDmem_rsApply a0 n locs mags s i]

theorem causesAmong_rscorr (d a : VReg) (b c : XReg) (running : s.runState ≠ .faulted) :
    CausesAmong (mayRaise (.rscorr d a b c)) (exec (.rscorr d a b c) s) := by
  have hchecks := yields_requireCorrections (cs := mayRaise (.rscorr d a b c)) (s := s)
    (by simp [mayRaise]) (by simp [mayRaise]) (by simp [mayRaise]) (by simp [mayRaise])
    (by simp [mayRaise]) (s.readV d) (s.readV a) (s.readX b).toNat (s.readX c).toNat
  rw [exec, execRscorr]
  split
  · next e he =>
    rw [he] at hchecks
    exact causesAmong_trap hchecks
  · refine causesAmong_completeFrom ?_ fun e he => ?_
    · rwa [rsApply_runState]
    · rw [rsApply_trap _ _ _ _ _ _ _ he]
      simp [mayRaise]

theorem yields_rsdecPlan (d a b c : XReg) (hfield : s.FieldBuilt) :
    Yields (mayRaise (.rsdec d a b c)) (fun _ => True)
      (rsdecPlan s (s.readX a).toNat (s.readX b).toNat (s.readX c).toNat) := by
  cases hblock : requireBlock s (s.readX a).toNat (s.readX b).toNat (s.readX c).toNat with
  | error e =>
    have hchecks := yields_requireBlock (cs := mayRaise (.rsdec d a b c)) (s := s)
      (by simp [mayRaise]) (by simp [mayRaise]) (by simp [mayRaise]) (by simp [mayRaise])
      (by simp [mayRaise]) (s.readX a).toNat (s.readX b).toNat (s.readX c).toNat
    rw [hblock] at hchecks
    rw [rsdecPlan, hblock]
    exact hchecks
  | ok =>
    obtain ⟨hlegal, hgf⟩ := hfield ((requireBlock_eq_ok ..).1 hblock).1
    obtain ⟨e, he, hcause⟩ | ⟨locs, mags, hok, -⟩ := hlegal.rsdecPlan_cases hgf hblock
    · rw [he]
      change e.cause ∈ _
      obtain hcause | hcause := hcause <;> simp [mayRaise, hcause]
    · rw [hok]
      trivial

theorem causesAmong_rsdec (d a b c : XReg) (hfield : s.FieldBuilt) (running : s.runState ≠ .faulted) :
    CausesAmong (mayRaise (.rsdec d a b c)) (exec (.rsdec d a b c) s) := by
  have hplan := yields_rsdecPlan d a b c hfield
  rw [exec, execRsdec]
  split
  · next e he =>
    rw [he] at hplan
    exact causesAmong_trap hplan
  · next locs mags hok =>
    have hrun := (rsApply_runState s (s.readX a).toNat (s.readX b).toNat 0 locs mags).trans_ne running
    rw [withCount]
    split
    · exact causesAmong_completeFrom hrun fun e he => nomatch he
    · next e he =>
      refine causesAmong_completeFrom hrun fun e' he' => ?_
      obtain rfl := Option.some.inj he'
      rw [rsApply_trap _ _ _ _ _ _ _ he]
      simp [mayRaise]

/-- Every instruction ends in `complete` with a known result, or writes no vector register. -/
theorem completes_or_no_vector (i : Instr) (hfield : s.FieldBuilt) (hcache : s.CacheBuilt)
    (running : s.runState ≠ .faulted) :
    Completes i s ∨ (destV i = [] ∧ CausesAmong (mayRaise i) (exec i s)) := by
  cases i with
  | halt => exact .inr ⟨rfl, causesAmong_next RunState.noConfusion⟩
  | jmp target => exact .inr ⟨rfl, causesAmong_next (u := s.jump target) running⟩
  | beq d a target | bne d a target | bltu d a target =>
    refine .inr ⟨rfl, causesAmong_next ?_⟩
    rwa [branch_eq]
  | rscorr d a b c => exact .inr ⟨rfl, causesAmong_rscorr d a b c running⟩
  | rsdec d a b c => exact .inr ⟨rfl, causesAmong_rsdec d a b c hfield running⟩
  | nop | li | mov | add | sub | addi | ldw | stw | csrr | csrw | gfinit | vld | vst | vlen | vget
  | vmov => exact .inl (completes_of_not_needsField rfl Instr.noConfusion rfl)
  | gfadd d a b => exact .inl (completes_gf (d := d) (a := a) (b := b) (by simp))
  | gfmul d a b => exact .inl (completes_gf (d := d) (a := a) (b := b) (by simp))
  | gfinv d a => exact .inl (completes_gf (d := d) (a := a) (b := a) (by simp))
  | gfexp d a => exact .inl (completes_gf (d := d) (a := a) (b := a) (by simp))
  | gflog d a => exact .inl (completes_gf (d := d) (a := a) (b := a) (by simp))
  | pnorm d a => exact .inl (completes_pnorm d a)
  | pmono d a b => exact .inl (completes_pmono d a b)
  | pdeg d a => exact .inl (completes_pdeg d a)
  | pcoef d a b => exact .inl (completes_pcoef d a b)
  | pisz d a => exact .inl (completes_pisz d a)
  | padd d a b => exact .inl (completes_padd d a b)
  | pmul d a b => exact .inl (completes_pmul d a b)
  | pscale d a b => exact .inl (completes_pscale d a b)
  | pmulm d a b c => exact .inl (completes_pmulm d a b c)
  | pdiv d a b c => exact .inl (completes_pdiv d a b c hfield)
  | peval d a b => exact .inl (completes_peval d a b)
  | rsgen a => exact .inl (completes_rsgen a)
  | pgen d a => exact .inl (completes_pgen d a hfield hcache)
  | rsenc a b c => exact .inl (completes_rsenc a b c hfield hcache)
  | rssyn d a b c => exact .inl (completes_rssyn d a b c)
  | rseuc d a b c => exact .inl (completes_rseuc d a b c hfield)
  | rschien d a => exact .inl (completes_rschien d a hfield)
  | rsforn d a b => exact .inl (completes_rsforn d a b)

end

/-- Settles O11: the causes are those of the checks and functions of each instruction. -/
theorem causesPerInstruction : Obligations.CausesPerInstruction := by
  unfold Obligations.CausesPerInstruction
  intro i s t hfield hcache hrun
  have running : s.runState ≠ .faulted := by simp [hrun]
  obtain h | ⟨-, h⟩ := completes_or_no_vector i hfield hcache running
  · exact h.causesAmong running t
  · exact h t

/-- Settles O57: every result that is written to a vector register fits; sigma does by the degree
bound of the key equation. -/
theorem vectorsAlwaysFit : Obligations.VectorsAlwaysFit := by
  unfold Obligations.VectorsAlwaysFit
  intro s t hs hfield hcache h
  cases step_case h with
  | host e rest t _ h => exact h.vectorsFit hs
  | pause | fetchTrap => exact hs
  | runs q i t running _ h =>
    obtain hcompletes | ⟨hdest, -⟩ := completes_or_no_vector (s := { s with hostQueue := q }) i hfield
      hcache (by simp [running])
    · exact hcompletes.vectorsFit hs h
    · intro r
      rw [(exec_shape h).readV_eq (by rw [hdest]; exact List.not_mem_nil)]
      exact hs r

end Sys2Proof.Machine
end


section
/-! PROOFS. The host port (20_memory.md R47 to R49) and its rows of the run-state table
(60_exceptions.md R226). -/

namespace Sys2Proof.Machine

/-! ### The regions of the host map, for reads (R47) -/

theorem gf_exp (s : State) : s.gf.exp = s.expTable := rfl

theorem gf_log (s : State) : s.gf.log = s.logTable := rfl

section
variable {s : State} {h : Nat}

theorem setWidth_word_tableEntry (e : TableEntry) : (e.setWidth 16).setWidth 32 = e.setWidth 32 := by
  bv_omega

theorem readMap_dmem (hlt : h < 0x1000) : readMap s h = some ((s.readDmem h).setWidth 32) := by
  rw [readMap, if_pos hlt]

theorem readMap_imem (hle : 0x1000 ≤ h) (hlt : h < 0x1400) :
    readMap s h = some (s.readImem (h - 0x1000)) := by
  rw [readMap, if_neg (by omega), if_pos hlt]

theorem readMap_exp (hle : 0x2000 ≤ h) (hlt : h < 0x3000) :
    readMap s h = if s.gfValid = true ∧ h - 0x2000 < s.gfSize.toNat then
      some ((expAt s.gf (h - 0x2000)).setWidth 32) else none := by
  rw [readMap, if_neg (by omega), if_neg (by omega), if_neg (by omega), if_pos hlt, windowRead,
    expAt, setWidth_word_tableEntry, gf_exp]

theorem readMap_log (hle : 0x3000 ≤ h) (hlt : h < 0x4000) {a : Word} (ha : a.toNat = h - 0x3000) :
    readMap s h = if s.gfValid = true ∧ h - 0x3000 < s.gfSize.toNat then
      some (BitVec.ofNat 32 (logAt s.gf a)) else none := by
  rw [readMap, if_neg (by omega), if_neg (by omega), if_neg (by omega), if_neg (by omega),
    if_pos hlt, windowRead, logAt, ha, BitVec.ofNat_toNat, gf_log]

theorem hostRegister_add (r : XReg) : hostRegister (0x4000 + r.val) = r := by
  have hmod (k : Nat) : (k + r.val - k) % 16 = r.val := by omega
  exact Fin.ext (hmod 0x4000)

theorem readMap_scalar (r : XReg) :
    readMap s (0x4000 + r.val) = some ((s.readX r).setWidth 32) := by
  rw [readMap, if_neg (by omega), if_neg (by omega), if_neg (by omega), if_neg (by omega),
    if_neg (by omega), if_pos (by omega), hostRegister_add]

theorem readMap_csr (n : Nat) : readMap s (0x8000 + n) = csrValue s n := by
  rw [readMap, if_neg (by omega), if_neg (by omega), if_neg (by omega), if_neg (by omega),
    if_neg (by omega), if_neg (by omega), if_neg (by omega), Nat.add_sub_cancel_left]

/-- The two holes of the map. -/
theorem readMap_hole (hole : 0x1400 ≤ h ∧ h < 0x2000 ∨ 0x4010 ≤ h ∧ h < 0x8000) :
    readMap s h = none := by
  obtain ⟨hle, hlt⟩ | ⟨hle, hlt⟩ := hole
  · rw [readMap, if_neg (by omega), if_neg (by omega), if_pos hlt]
  · rw [readMap, if_neg (by omega), if_neg (by omega), if_neg (by omega), if_neg (by omega),
      if_neg (by omega), if_neg (by omega), if_pos hlt]

/-! ### The regions of the host map, for writes (R47) -/

theorem writeMap_dmem (d : Word32) (hlt : h < 0x1000) :
    s.writeMap h d = some (s.writeDmem h (d.setWidth 16)) :=
  (writeMap_eq_some ..).2 (.inl ⟨hlt, rfl⟩)

theorem writeMap_imem (d : Word32) (hle : 0x1000 ≤ h) (hlt : h < 0x1400) :
    s.writeMap h d = some (s.writeImem (h - 0x1000) d) :=
  (writeMap_eq_some ..).2 (.inr (.inl ⟨hle, hlt, rfl⟩))

theorem writeMap_scalar (d : Word32) (r : XReg) :
    s.writeMap (0x4000 + r.val) d = some (s.writeX r (d.setWidth 16)) :=
  (writeMap_eq_some ..).2 (.inr (.inr (.inl ⟨by omega, by omega, by rw [hostRegister_add]⟩)))

theorem writeMap_csr (d : Word32) (n : Nat) :
    s.writeMap (0x8000 + n) d = s.hostWriteCsr n d := by
  rw [State.writeMap, if_neg (by omega), if_neg (by omega), if_neg (by omega), if_neg (by omega),
    if_neg (by omega), Nat.add_sub_cancel_left]

/-- The table windows and the holes take no write. -/
theorem writeMap_hole (d : Word32) (hole : 0x1400 ≤ h ∧ h < 0x4000 ∨ 0x4010 ≤ h ∧ h < 0x8000) :
    s.writeMap h d = none := by
  refine Option.eq_none_iff_forall_ne_some.2 fun t ht => ?_
  obtain ⟨hlt, -⟩ | ⟨hle, hlt, -⟩ | ⟨hle, hlt, -⟩ | ⟨hle, -⟩ := (writeMap_eq_some ..).1 ht
  all_goals omega

theorem hostWriteCsr_eq_none {n : Nat} (d : Word32) (hfield : 3 ≤ n) (hctrl : n ≠ 0x0014)
    (hentry : n ≠ 0x0015) : s.hostWriteCsr n d = none := by
  refine Option.eq_none_iff_forall_ne_some.2 fun t ht => ?_
  obtain ⟨hn, -⟩ | ⟨hn, -⟩ | ⟨-, -, ht⟩ := (hostWriteCsr_eq_some ..).1 ht
  · exact hctrl hn
  · exact hentry hn
  · rw [(writeFieldCsr_eq_none ..).2 hfield] at ht
    cases ht

end

/-! ### Who may use the map (R48, R49) -/

theorem toNat_eq_ctrl_iff (h : Word) : h.toNat = 0x8014 ↔ h = 0x8014 :=
  ⟨fun k => BitVec.eq_of_toNat_eq k, fun k => by rw [k]; rfl⟩

section
variable {s : State} {h : Word} {d : Word32}

theorem hostRead_of_running (running : s.runState = .run) (h : Word) :
    s.hostRead h = if h = 0x8010 then some 1 else none := by
  have hstatus : h.toNat = 0x8010 ↔ h = 0x8010 :=
    ⟨fun k => BitVec.eq_of_toNat_eq k, fun k => by rw [k]; rfl⟩
  rw [State.hostRead, if_pos ((running_iff s).2 running), csrValue, running]
  simp only [hstatus]
  rfl

theorem hostRead_of_stopped (stopped : s.runState ≠ .run) (h : Word) :
    s.hostRead h = readMap s h.toNat := by
  rw [State.hostRead, if_neg (mt (running_iff s).1 stopped)]

theorem hostWrite_softReset (ctrl : h = 0x8014) (bit : d.getLsbD 2 = true) :
    s.hostWrite h d = some s.softReset := by
  rw [State.hostWrite, if_pos ⟨(toNat_eq_ctrl_iff h).2 ctrl, bit⟩]

theorem hostWrite_of_running (running : s.runState = .run)
    (other : ¬(h = 0x8014 ∧ d.getLsbD 2 = true)) : s.hostWrite h d = none := by
  rw [State.hostWrite, if_neg (by rwa [toNat_eq_ctrl_iff]), if_pos ((running_iff s).2 running)]

theorem hostWrite_of_stopped (stopped : s.runState ≠ .run)
    (other : ¬(h = 0x8014 ∧ d.getLsbD 2 = true)) : s.hostWrite h d = s.writeMap h.toNat d := by
  rw [State.hostWrite, if_neg (by rwa [toNat_eq_ctrl_iff]), if_neg (mt (running_iff s).1 stopped)]

end

/-! ### A queued event is the next step -/

theorem csrValue_withQueue (s : State) (n : Nat) (q : List HostEvent) :
    csrValue { s with hostQueue := q } n = csrValue s n := by
  unfold csrValue
  split <;> rfl

theorem readMap_withQueue (s : State) (h : Nat) (q : List HostEvent) :
    readMap { s with hostQueue := q } h = readMap s h := by
  unfold readMap
  simp only [csrValue_withQueue]
  rfl

theorem hostRead_withQueue (s : State) (h : Word) (q : List HostEvent) :
    State.hostRead { s with hostQueue := q } h = s.hostRead h := by
  simp only [State.hostRead, csrValue_withQueue, readMap_withQueue]
  rfl

theorem clear_withQueue (s : State) (q : List HostEvent) :
    State.clear { s with hostQueue := q } = { s.clear with hostQueue := q } := by
  cases hrun : s.runState <;> simp only [State.clear, hrun]

theorem start_withQueue (s : State) (q : List HostEvent) :
    State.start { s with hostQueue := q } = { s.start with hostQueue := q } := by
  cases hrun : s.runState <;> simp only [State.start, hrun]

theorem writeCtrl_withQueue (s : State) (d : Word32) (q : List HostEvent) :
    State.writeCtrl { s with hostQueue := q } d = { s.writeCtrl d with hostQueue := q } := by
  have hclear := clear_withQueue { s with irqEnable := d.getLsbD 8 } q
  unfold State.writeCtrl
  cases d.getLsbD 0 <;> cases d.getLsbD 1
  case false.false => rfl
  case false.true => exact hclear
  case true.false => exact start_withQueue { s with irqEnable := d.getLsbD 8 } q
  case true.true => exact (congrArg State.start hclear).trans (start_withQueue ..)

theorem hostWrite_withQueue {s t : State} {h : Word} {d : Word32} (q : List HostEvent)
    (ht : s.hostWrite h d = some t) :
    State.hostWrite { s with hostQueue := q } h d = some { t with hostQueue := q } := by
  refine (hostWrite_eq_some ..).2 ?_
  obtain ⟨ctrl, bit, rfl⟩ | ⟨other, stopped, hmap⟩ := (hostWrite_eq_some ..).1 ht
  · exact .inl ⟨ctrl, bit, rfl⟩
  refine .inr ⟨other, stopped, (writeMap_eq_some ..).2 ?_⟩
  obtain ⟨hlt, rfl⟩ | ⟨hle, hlt, rfl⟩ | ⟨hle, hlt, rfl⟩ | ⟨hle, hcsr⟩ := (writeMap_eq_some ..).1 hmap
  · exact .inl ⟨hlt, rfl⟩
  · exact .inr (.inl ⟨hle, hlt, rfl⟩)
  · exact .inr (.inr (.inl ⟨hle, hlt, rfl⟩))
  refine .inr (.inr (.inr ⟨hle, (hostWriteCsr_eq_some ..).2 ?_⟩))
  obtain ⟨hn, rfl⟩ | ⟨hn, rfl⟩ | ⟨hctrl, hentry, hfield⟩ := (hostWriteCsr_eq_some ..).1 hcsr
  · exact .inl ⟨hn, (writeCtrl_withQueue ..).symm⟩
  · exact .inr (.inl ⟨hn, rfl⟩)
  refine .inr (.inr ⟨hctrl, hentry, (writeFieldCsr_eq_some ..).2 ?_⟩)
  obtain ⟨hn, rfl⟩ | ⟨hn, rfl⟩ | ⟨hn, rfl⟩ := (writeFieldCsr_eq_some ..).1 hfield
  · exact .inl ⟨hn, rfl⟩
  · exact .inr (.inl ⟨hn, rfl⟩)
  · exact .inr (.inr ⟨hn, rfl⟩)

section
variable {s : State} {rest : List HostEvent}

theorem step_of_pass (hq : s.hostQueue = .pass :: rest) :
    step s = State.sequencerStep { s with hostQueue := rest } := by
  rw [step, State.agentStep, hq]

theorem step_of_event {e : HostEvent} (hq : s.hostQueue = e :: rest) (he : e ≠ .pass) :
    step s = .next (State.hostEvent { s with hostQueue := rest } e) := by
  rw [step, State.agentStep, hq]
  cases e with
  | pass => exact absurd rfl he
  | read | write | hardReset => rfl

theorem step_of_read_some {h : Word} {value : Word32} (hq : s.hostQueue = .read h :: rest)
    (hread : s.hostRead h = some value) :
    step s = .next { s with hostQueue := rest, hostReply := .data value } := by
  rw [step_of_event hq HostEvent.noConfusion, State.hostEvent, hostRead_withQueue, hread]

theorem step_of_read_none {h : Word} (hq : s.hostQueue = .read h :: rest)
    (hread : s.hostRead h = none) :
    step s = .next { s with hostQueue := rest, hostReply := .refused } := by
  rw [step_of_event hq HostEvent.noConfusion, State.hostEvent, hostRead_withQueue, hread]

theorem step_of_write_some {h : Word} {d : Word32} {t : State} (hq : s.hostQueue = .write h d :: rest)
    (hwrite : s.hostWrite h d = some t) :
    step s = .next { t with hostQueue := rest, hostReply := .done } := by
  rw [step_of_event hq HostEvent.noConfusion, State.hostEvent, hostWrite_withQueue rest hwrite]

theorem step_of_write_none {h : Word} {d : Word32} (hq : s.hostQueue = .write h d :: rest)
    (hwrite : s.hostWrite h d = none) :
    step s = .next { s with hostQueue := rest, hostReply := .refused } := by
  have hwrite' : State.hostWrite { s with hostQueue := rest } h d = none :=
    Option.eq_none_iff_forall_ne_some.2 fun t ht => by
      have := hostWrite_withQueue s.hostQueue ht
      rw [show s.hostWrite h d = _ from this] at hwrite
      cases hwrite
  rw [step_of_event hq HostEvent.noConfusion, State.hostEvent, hwrite']

end

/-! ### The run state and the pc after a write -/

/-- Outside `CTRL` no write touches the run state or the pc. -/
theorem hostWrite_keeps_run {s t : State} {h : Word} {d : Word32} (ht : s.hostWrite h d = some t)
    (other : h ≠ 0x8014) : t.runState = s.runState ∧ t.pc = s.pc := by
  obtain ⟨ctrl, -, -⟩ | ⟨-, -, hmap⟩ := (hostWrite_eq_some ..).1 ht
  · exact absurd ((toNat_eq_ctrl_iff h).1 ctrl) other
  obtain ⟨-, rfl⟩ | ⟨-, -, rfl⟩ | ⟨-, -, rfl⟩ | ⟨hle, hcsr⟩ := (writeMap_eq_some ..).1 hmap
  · exact ⟨rfl, rfl⟩
  · exact ⟨rfl, rfl⟩
  · exact ⟨rfl, rfl⟩
  obtain ⟨hn, -⟩ | ⟨-, rfl⟩ | ⟨-, -, hfield⟩ := (hostWriteCsr_eq_some ..).1 hcsr
  · exact absurd ((toNat_eq_ctrl_iff h).1 (by omega)) other
  · exact ⟨rfl, rfl⟩
  · obtain ⟨-, rfl⟩ | ⟨-, rfl⟩ | ⟨-, rfl⟩ := (writeFieldCsr_eq_some ..).1 hfield
    all_goals exact ⟨rfl, rfl⟩

theorem ctrl_toNat : (0x8014 : Word).toNat = 0x8000 + 0x14 := by decide

theorem hostWrite_ctrl {s : State} (stopped : s.runState ≠ .run) {d : Word32}
    (bit : d.getLsbD 2 = false) : s.hostWrite 0x8014 d = some (s.writeCtrl d) := by
  rw [hostWrite_of_stopped stopped (by simp [bit, -BitVec.getLsbD_eq_getElem]), 
    ctrl_toNat, writeMap_csr]
  rfl

theorem runStateAfterCtrl_of_reset (r : RunState) {d : Word32} (bit : d.getLsbD 2 = true) :
    runStateAfterCtrl r d = .idle := by
  simp only [runStateAfterCtrl, bit, if_true]

theorem runStateAfterCtrl_run {d : Word32} (bit : d.getLsbD 2 = false) :
    runStateAfterCtrl .run d = .run := by
  simp only [runStateAfterCtrl, bit, Bool.false_eq_true, if_false]

/-! ### The statements -/

/-- Settles O49: while the sequencer runs the port answers two transactions, and a refused one only
sets the reply. -/
theorem hostWhileRunning : Obligations.HostWhileRunning := by
  unfold Obligations.HostWhileRunning
  intro s running
  have hwrite : ∀ (h : Word) (d : Word32), s.hostWrite h d =
      if h = 0x8014 ∧ d.getLsbD 2 = true then some s.softReset else none := by
    intro h d
    split
    · next reset => exact hostWrite_softReset reset.1 reset.2
    · next other => exact hostWrite_of_running running other
  refine ⟨hostRead_of_running running, hwrite, fun e rest hq refused => ?_⟩
  obtain ⟨h, rfl, hne⟩ | ⟨h, d, rfl, other⟩ := refused
  · exact step_of_read_none hq (by rw [hostRead_of_running running, if_neg hne])
  · exact step_of_write_none hq (by rw [hwrite, if_neg other])

/-- Settles O50: with the sequencer stopped the port is the map, region by region. -/
theorem hostMapWhileStopped : Obligations.HostMapWhileStopped := by
  unfold Obligations.HostMapWhileStopped
  intro s stopped h d
  have write {h : Word} (other : h ≠ 0x8014) : s.hostWrite h d = s.writeMap h.toNat d :=
    hostWrite_of_stopped stopped fun reset => other reset.1
  have writeCsr {h : Word} (n : Nat) (hn : h.toNat = 0x8000 + n) (other : h ≠ 0x8014) :
      s.hostWrite h d = s.hostWriteCsr n d := by
    rw [write other, hn, writeMap_csr]
  have readCsr {h : Word} (n : Nat) (hn : h.toNat = 0x8000 + n) : readMap s h.toNat = csrValue s n := by
    rw [hn, readMap_csr]
  simp only [hostRead_of_stopped stopped]
  have below (hlt : h.toNat < 0x8000) : h ≠ 0x8014 := by
    rintro rfl
    exact absurd hlt (by decide)
  refine ⟨fun hle => ?_, fun hle hlt => ?_, fun hle hlt => ?_, fun hle hlt => ?_, fun hle hlt => ?_,
    fun r hr => ?_, fun hle hlt => ?_, fun hle => ?_, fun value hmem => ?_, fun hle hlt => ?_,
    ?_, ?_, ?_, ?_, fun bit => hostWrite_softReset rfl bit,
    fun bit => by rw [hostWrite_ctrl stopped bit, writeCtrl_eq stopped bit]⟩
  case refine_1 =>
    exact ⟨readMap_dmem (by omega), by rw [write (below (by omega)), writeMap_dmem d (by omega)]⟩
  case refine_2 =>
    exact ⟨readMap_imem hle (by omega),
      by rw [write (below (by omega)), writeMap_imem d hle (by omega)]⟩
  case refine_3 =>
    exact ⟨readMap_hole (by omega), by rw [write (below (by omega)), writeMap_hole d (by omega)]⟩
  case refine_4 =>
    exact ⟨by rw [write (below (by omega)), writeMap_hole d (by omega)], readMap_exp hle (by omega)⟩
  case refine_5 =>
    exact ⟨by rw [write (below (by omega)), writeMap_hole d (by omega)],
      readMap_log hle (by omega) (by bv_omega)⟩
  case refine_6 =>
    rw [write (below (by omega)), hr]
    exact ⟨readMap_scalar r, writeMap_scalar d r⟩
  case refine_7 =>
    exact ⟨readMap_hole (by omega), by rw [write (below (by omega)), writeMap_hole d (by omega)]⟩
  case refine_8 =>
    obtain ⟨n, hn⟩ := Nat.exists_eq_add_of_le (show 0x8000 ≤ h.toNat by omega)
    rw [readCsr n hn, writeCsr n hn (by bv_omega)]
    exact ⟨csrValue_eq_none (by omega) (by simp [readableCsrs]; omega),
      hostWriteCsr_eq_none d (by omega) (by omega) (by omega)⟩
  case refine_9 =>
    simp only [List.mem_cons, List.not_mem_nil, or_false, Prod.mk.injEq] at hmem
    obtain ⟨rfl, rfl⟩ | ⟨rfl, rfl⟩ | ⟨rfl, rfl⟩ | ⟨rfl, rfl⟩ | ⟨rfl, rfl⟩ | ⟨rfl, rfl⟩ | ⟨rfl, rfl⟩ |
      ⟨rfl, rfl⟩ | ⟨rfl, rfl⟩ | ⟨rfl, rfl⟩ | ⟨rfl, rfl⟩ | ⟨rfl, rfl⟩ := hmem
    · exact readCsr 0 (by decide)
    · exact readCsr 1 (by decide)
    · exact readCsr 2 (by decide)
    · exact readCsr 3 (by decide)
    · exact readCsr 4 (by decide)
    · rw [readCsr 0x10 (by decide), csrValue]
      cases s.runState <;> rfl
    · exact readCsr 0x11 (by decide)
    · exact readCsr 0x12 (by decide)
    · exact readCsr 0x13 (by decide)
    · exact readCsr 0x14 (by decide)
    · exact readCsr 0x15 (by decide)
    · exact readCsr 0x16 (by decide)
  case refine_10 =>
    obtain ⟨n, hn⟩ := Nat.exists_eq_add_of_le hle
    simp only [List.mem_cons, List.not_mem_nil, or_false, not_or]
    refine ⟨fun other => ?_, fun other => ?_⟩
    · rw [readCsr n hn]
      exact csrValue_eq_none (by bv_omega) (by simp [readableCsrs]; bv_omega)
    · rw [writeCsr n hn other.2.2.2.1]
      exact hostWriteCsr_eq_none d (by bv_omega) (by bv_omega) (by bv_omega)
  case refine_11 => exact writeCsr 0 (by decide) (by decide)
  case refine_12 => exact writeCsr 1 (by decide) (by decide)
  case refine_13 => exact writeCsr 2 (by decide) (by decide)
  case refine_14 => exact writeCsr 0x15 (by decide) (by decide)

/-- Settles O51: a queued event is one transaction of the port, whose answer fixes the next state. -/
theorem runStateTransitions : Obligations.RunStateTransitions := by
  unfold Obligations.RunStateTransitions
  intro s e rest hq
  refine ⟨?_, ?_, ?_, ?_⟩
  · rintro rfl
    exact step_of_pass hq
  · rintro rfl
    exact ⟨step_of_event hq HostEvent.noConfusion, rfl⟩
  · rintro h rfl
    exact ⟨fun value => step_of_read_some hq, step_of_read_none hq⟩
  · rintro h d rfl
    refine ⟨fun t => step_of_write_some hq, step_of_write_none hq,
      fun ctrl bit => step_of_write_some hq (hostWrite_softReset ctrl bit), fun t ht => ?_⟩
    refine ⟨fun other => ?_, ?_⟩
    · cases hwrite : s.hostWrite h d with
      | none =>
        cases (step_of_write_none hq hwrite).symm.trans ht
        exact ⟨rfl, rfl⟩
      | some u =>
        cases (step_of_write_some hq hwrite).symm.trans ht
        exact hostWrite_keeps_run (t := u) hwrite other
    · rintro rfl
      cases bit : d.getLsbD 2 with
      | true =>
        cases (step_of_write_some hq (hostWrite_softReset rfl bit)).symm.trans ht
        exact ⟨(runStateAfterCtrl_of_reset _ bit).symm, fun k => absurd k Bool.noConfusion⟩
      | false =>
        by_cases running : s.runState = .run
        · have hwrite := hostWrite_of_running running (h := 0x8014) (d := d) fun k =>
            absurd (bit.symm.trans k.2) Bool.noConfusion
          cases (step_of_write_none hq hwrite).symm.trans ht
          exact ⟨by rw [running, runStateAfterCtrl_run bit], fun _ k => absurd running k⟩
        · cases (step_of_write_some hq (hostWrite_ctrl running bit)).symm.trans ht
          rw [writeCtrl_eq running bit]
          exact ⟨rfl, fun _ _ => rfl⟩

end Sys2Proof.Machine
end


section
/-! PROOFS. The search of the minimal encoder finds a cheapest chain
(48_minimal_encoding_reference.md R202 to R206, R213). -/

namespace Sys2Proof.Machine

/-! ### Chains -/

section
variable {model : CostModel} {input : EncoderInput} {e : Edge} {prev : List Edge} {p : Nat}

theorem isChain_cons_iff :
    IsChain model input (e :: prev) p ↔
      IsChain model input prev e.start ∧ (e.mode, e.len) ∈ model.candidates input e.start prev ∧
        e.total = model.size input e.mode e.start e.len prev ∧ p = e.start + e.len := by
  constructor
  · intro h
    cases h with
    | extend h c => exact ⟨h, c, rfl, rfl⟩
  · rintro ⟨h, c, htotal, rfl⟩
    obtain ⟨mode, start, len, total⟩ := e
    obtain rfl : total = model.size input mode start len prev := htotal
    exact .extend h c

/-- R201: a chain with an edge has left position 0. -/
theorem IsChain.ne_nil_iff {chain : List Edge} (h : IsChain model input chain p) :
    chain ≠ [] ↔ p ≠ 0 := by
  cases h with
  | start => exact ⟨fun k => absurd rfl k, fun k => absurd rfl k⟩
  | @extend prev i mode len h c =>
    have := len.2
    exact ⟨fun _ => by omega, fun _ => List.cons_ne_nil _ _⟩

theorem endingMode_congr {q r : List Edge} (h : endingSlot model input q = endingSlot model input r) :
    model.endingMode input q = model.endingMode input r := by
  cases q <;> cases r
  case nil.nil => rfl
  case nil.cons | cons.nil => cases h
  case cons.cons => exact Option.some.inj h

end

/-! ### An edge after a cheaper chain of the same ending slot -/

section
variable {model : CostModel} {input : EncoderInput} (costs : AdditiveCosts model input)
  {q r : List Edge} (slot : endingSlot model input q = endingSlot model input r)

include costs slot

/-- R213: the segment and its transition cost the same after either chain. -/
theorem AdditiveCosts.size_le (mode i : Nat) (len : SegmentLength) (h : chainTotal q ≤ chainTotal r) :
    model.size input mode i len q ≤ model.size input mode i len r := by
  rw [CostModel.size, CostModel.size, costs.segment_congr mode i len q r slot, endingMode_congr slot]
  omega

theorem AdditiveCosts.endSlot_congr (mode i : Nat) (len : SegmentLength) (k l : Nat) :
    model.endSlot input ⟨mode, i, len, k⟩ q = model.endSlot input ⟨mode, i, len, l⟩ r := by
  rw [CostModel.endSlot, CostModel.endSlot, costs.collapses_congr _ l q r slot]

end

/-! ### Folds over tables -/

/-- What one element of the list establishes, and every element keeps, holds after the fold; `Q` is
what the establishing step needs of the accumulator. -/
theorem foldl_of_mem {α β : Type} {f : β → α → β} {P Q : β → Prop} {l : List α} {x : α} {b : β}
    (hx : x ∈ l) (hb : Q b) (keepQ : ∀ t a, Q t → Q (f t a)) (establish : ∀ t, Q t → P (f t x))
    (keepP : ∀ t a, P t → P (f t a)) : P (l.foldl f b) := by
  induction l generalizing b with
  | nil => cases hx
  | cons a rest ih =>
    rw [List.foldl_cons]
    obtain rfl | hx := List.mem_cons.1 hx
    · exact List.foldlRecOn rest f (establish b hb) fun t ht a _ => keepP t a ht
    · exact ih hx (keepQ b a hb)

/-! ### A vertex that holds a chain of at most some total -/

/-- The vertex holds a chain of total at most `k` (R202). -/
def SlotTable.Holds (table : SlotTable) (p m k : Nat) : Prop :=
  ∃ best rest, slotAt table p m = best :: rest ∧ best.total ≤ k

section
variable {model : CostModel} {input : EncoderInput} {table : SlotTable} {p m k : Nat}

theorem holds_addEdge_self (e : Edge) (prev : List Edge) :
    (addEdge model input table e prev).Holds (e.start + e.len) (model.endSlot input e prev)
      e.total := by
  cases h : slotAt table (e.start + e.len) (model.endSlot input e prev) with
  | nil => exact ⟨e, prev, slotAt_addEdge_of_nil h, Nat.le_refl _⟩
  | cons best rest =>
    rw [SlotTable.Holds, slotAt_addEdge_of_cons h]
    split
    case isTrue => exact ⟨e, prev, rfl, Nat.le_refl _⟩
    case isFalse hle => exact ⟨best, rest, rfl, Nat.le_of_not_lt hle⟩

/-- R204: a vertex never gets dearer. -/
theorem SlotTable.Holds.addEdge (h : table.Holds p m k) (e : Edge) (prev : List Edge) :
    (addEdge model input table e prev).Holds p m k := by
  by_cases vertex : p = e.start + e.len ∧ m = model.endSlot input e prev
  · obtain ⟨rfl, rfl⟩ := vertex
    obtain ⟨best, rest, hslot, hle⟩ := h
    rw [SlotTable.Holds, slotAt_addEdge_of_cons hslot]
    split
    case isTrue hlt => exact ⟨e, prev, rfl, by omega⟩
    case isFalse => exact ⟨best, rest, rfl, hle⟩
  · rw [SlotTable.Holds, slotAt_addEdge_of_ne_vertex vertex]
    exact h

theorem SlotTable.Holds.addEdges (h : table.Holds p m k) (i : Nat) (prev : List Edge) :
    (addEdges model input i prev table).Holds p m k :=
  List.foldlRecOn (motive := fun t : SlotTable => t.Holds p m k) _ _ h fun _ ht _ _ => ht.addEdge ..

/-- R205: every candidate edge is filed. -/
theorem holds_addEdges_of_mem {mode i : Nat} {len : SegmentLength} {prev : List Edge}
    (h : (mode, len) ∈ model.candidates input i prev) :
    (addEdges model input i prev table).Holds (i + len)
      (model.endSlot input ⟨mode, i, len, model.size input mode i len prev⟩ prev)
      (model.size input mode i len prev) :=
  foldl_of_mem
    (P := fun t : SlotTable => t.Holds (i + len)
      (model.endSlot input ⟨mode, i, len, model.size input mode i len prev⟩ prev)
      (model.size input mode i len prev))
    (Q := fun _ => True) h trivial (fun _ _ _ => trivial)
    (fun _ _ => holds_addEdge_self ⟨mode, i, len, model.size input mode i len prev⟩ prev)
    fun _ _ ht => ht.addEdge ..

end

/-! ### One position of the sweep -/

/-- What the sweep does at one slot of a position: its chain, if it holds one, is expanded (R206). -/
def expandSlot (model : CostModel) (input : EncoderInput) (i : Nat) (table : SlotTable) (m : Nat) :
    SlotTable :=
  match slotAt table i m with
  | [] => table
  | e :: prev => addEdges model input i (e :: prev) table

theorem expandPosition_eq (model : CostModel) (input : EncoderInput) (table : SlotTable) (i : Nat) :
    expandPosition model input table i = (List.range model.slots).foldl (expandSlot model input i) table :=
  rfl

section
variable {model : CostModel} {input : EncoderInput} {table : SlotTable} {i m : Nat}

theorem expandSlot_of_cons {e : Edge} {prev : List Edge} (h : slotAt table i m = e :: prev) :
    expandSlot model input i table m = addEdges model input i (e :: prev) table := by
  rw [expandSlot, h]

/-- Either nothing happens or the chain of the slot is expanded. -/
theorem expandSlot_cases (model : CostModel) (input : EncoderInput) (table : SlotTable) (i m : Nat) :
    expandSlot model input i table m = table ∨ ∃ e prev, slotAt table i m = e :: prev ∧
      expandSlot model input i table m = addEdges model input i (e :: prev) table := by
  cases h : slotAt table i m with
  | nil => exact .inl (by rw [expandSlot, h])
  | cons e prev => exact .inr ⟨e, prev, rfl, expandSlot_of_cons h⟩

theorem slotAt_expandSlot (n : Nat) :
    slotAt (expandSlot model input i table n) i m = slotAt table i m := by
  obtain h | ⟨e, prev, -, h⟩ := expandSlot_cases model input table i n
  · rw [h]
  · rw [h, slotAt_addEdges_of_le _ _ _ _ _ _ _ (Nat.le_refl i)]

theorem SlotTable.Holds.expandSlot {p k : Nat} (h : table.Holds p m k) (n : Nat) :
    (expandSlot model input i table n).Holds p m k := by
  obtain heq | ⟨e, prev, -, heq⟩ := expandSlot_cases model input table i n
  · rwa [heq]
  · rw [heq]
    exact h.addEdges ..

theorem SlotTable.Holds.expandPosition {p k : Nat} (h : table.Holds p m k) (i : Nat) :
    (expandPosition model input table i).Holds p m k := by
  rw [expandPosition_eq]
  exact List.foldlRecOn (motive := fun t : SlotTable => t.Holds p m k) _ _ h
    fun _ ht n _ => ht.expandSlot n

/-- Every candidate edge after the chain of a slot is filed. -/
theorem holds_expandPosition_of_mem {e : Edge} {prev : List Edge} {mode : Nat} {len : SegmentLength}
    (hm : m < model.slots) (hslot : slotAt table i m = e :: prev)
    (h : (mode, len) ∈ model.candidates input i (e :: prev)) :
    (expandPosition model input table i).Holds (i + len)
      (model.endSlot input ⟨mode, i, len, model.size input mode i len (e :: prev)⟩ (e :: prev))
      (model.size input mode i len (e :: prev)) := by
  rw [expandPosition_eq]
  refine foldl_of_mem
    (P := fun t : SlotTable => t.Holds (i + len)
      (model.endSlot input ⟨mode, i, len, model.size input mode i len (e :: prev)⟩ (e :: prev))
      (model.size input mode i len (e :: prev)))
    (Q := fun t => slotAt t i m = e :: prev) (List.mem_range.2 hm) hslot
    (fun t n ht => (slotAt_expandSlot n).trans ht) (fun t ht => ?_) fun t n ht => ht.expandSlot n
  rw [expandSlot_of_cons ht]
  exact holds_addEdges_of_mem h

end

/-! ### Every vertex holds a chain to itself -/

/-- Every filed chain ends at its vertex: position and ending slot (R202, R204). -/
def SlotTable.Sound (model : CostModel) (input : EncoderInput) (table : SlotTable) : Prop :=
  ∀ p m e prev, slotAt table p m = e :: prev →
    IsChain model input (e :: prev) p ∧ model.endSlot input e prev = m

section
variable {model : CostModel} {input : EncoderInput} {table : SlotTable}

theorem sound_nil : SlotTable.Sound model input [] := fun _ _ _ _ h => absurd h.symm (List.cons_ne_nil _ _)

theorem SlotTable.Sound.addEdge (h : table.Sound model input) {e : Edge} {prev : List Edge}
    (chain : IsChain model input (e :: prev) (e.start + e.len)) :
    (addEdge model input table e prev).Sound model input := by
  obtain heq | heq := addEdge_cases model input table e prev
  · rwa [heq]
  · rw [heq]
    intro p m f fprev hslot
    by_cases vertex : e.start + e.len = p ∧ model.endSlot input e prev = m
    · obtain ⟨rfl, rfl⟩ := vertex
      rw [slotAt_cons_same] at hslot
      cases hslot
      exact ⟨chain, rfl⟩
    · rw [slotAt_cons_ne _ _ _ _ _ _ vertex] at hslot
      exact h p m f fprev hslot

theorem SlotTable.Sound.addEdges (h : table.Sound model input) {i : Nat} {prev : List Edge}
    (chain : IsChain model input prev i) : (addEdges model input i prev table).Sound model input :=
  List.foldlRecOn (motive := SlotTable.Sound model input) _ _ h
    fun _ ht _ hc => ht.addEdge (.extend chain hc)

theorem SlotTable.Sound.expandPosition (h : table.Sound model input) (i : Nat) :
    (expandPosition model input table i).Sound model input := by
  rw [expandPosition_eq]
  refine List.foldlRecOn (motive := SlotTable.Sound model input) _ _ h fun t ht m _ => ?_
  obtain heq | ⟨e, prev, hslot, heq⟩ := expandSlot_cases model input t i m
  · rwa [heq]
  · rw [heq]
    exact ht.addEdges (ht i m e prev hslot).1

end

/-! ### Every chain is matched by its vertex -/

/-- Every chain whose last edge starts before `k` is matched, in its vertex, by a filed chain that is
no dearer: what the sweep has done once it has expanded the positions before `k` (R206). -/
def SlotTable.CoversBefore (model : CostModel) (input : EncoderInput) (k : Nat)
    (table : SlotTable) : Prop :=
  ∀ p e prev, IsChain model input (e :: prev) p → e.start < k →
    table.Holds p (model.endSlot input e prev) e.total

section
variable {model : CostModel} {input : EncoderInput} {table : SlotTable}

/-- Step 2 of R206: the edges of the virtual start. -/
theorem coversBefore_one : (addEdges model input 0 [] []).CoversBefore model input 1 := by
  rintro p _ prev (_ | @⟨_, start, mode, len, chain, hmem⟩) hlt
  obtain rfl : start = 0 := Nat.lt_one_iff.1 hlt
  obtain rfl : prev = [] := not_not.1 fun hne => chain.ne_nil_iff.1 hne rfl
  exact holds_addEdges_of_mem hmem

/-- Step 3 of R206 at `k`: a chain through `k` is no cheaper than the same last edge after the chain
filed at its vertex there. -/
theorem SlotTable.CoversBefore.expandPosition (costs : AdditiveCosts model input) {k : Nat}
    (hk : k ≠ 0) (sound : table.Sound model input) (covers : table.CoversBefore model input k) :
    (expandPosition model input table k).CoversBefore model input (k + 1) := by
  intro p e prev h hlt
  obtain hstart | rfl := Nat.lt_succ_iff_lt_or_eq.1 hlt
  · exact (covers p _ prev h hstart).expandPosition k
  obtain _ | @⟨_, start, mode, len, chain, hmem⟩ := h
  obtain ⟨f, fprev, rfl⟩ := List.exists_cons_of_ne_nil (chain.ne_nil_iff.2 hk)
  obtain ⟨-, hfmem, -, hend⟩ := isChain_cons_iff.1 chain
  have hfstart : f.start < start := hend ▸ f.start_lt_end
  obtain ⟨best, bprev, hslot, hle⟩ := covers start f fprev chain hfstart
  have hbest : model.endSlot input best bprev = model.endSlot input f fprev :=
    (sound _ _ _ _ hslot).2
  have slot : endingSlot model input (best :: bprev) = endingSlot model input (f :: fprev) :=
    congrArg some hbest
  rw [← costs.candidates_congr start _ _ slot] at hmem
  obtain ⟨kept, rest, hkept, hcost⟩ :=
    holds_expandPosition_of_mem (costs.slot_lt _ _ _ _ hfmem f.total) hslot hmem
  rw [costs.endSlot_congr slot] at hkept
  exact ⟨kept, rest, hkept, hcost.trans (costs.size_le slot mode start len hle)⟩

/-- The whole of step 3, from position `k` on. -/
theorem coversBefore_foldl (costs : AdditiveCosts model input) (n : Nat) {k : Nat} (hk : k ≠ 0)
    (sound : table.Sound model input) (covers : table.CoversBefore model input k) :
    SlotTable.Sound model input ((List.range' k n).foldl (expandPosition model input) table) ∧
      SlotTable.CoversBefore model input (k + n)
        ((List.range' k n).foldl (expandPosition model input) table) := by
  induction n generalizing k table with
  | zero => exact ⟨sound, covers⟩
  | succ n ih =>
    rw [List.range'_succ, List.foldl_cons, Nat.add_comm n, ← Nat.add_assoc]
    exact ih (Nat.succ_ne_zero k) (sound.expandPosition k) (covers.expandPosition costs hk sound)

theorem sweep_sound_covers (costs : AdditiveCosts model input) :
    (sweep model input).Sound model input ∧
      (sweep model input).CoversBefore model input (1 + input.length) :=
  coversBefore_foldl costs input.length Nat.one_ne_zero (sound_nil.addEdges .start) coversBefore_one

end

/-! ### The choice at the end of the input (step 5 of R206) -/

section
variable {model : CostModel} {input : EncoderInput} {table : SlotTable}

/-- The choice between the best chain so far and the chain of one more slot. -/
def cheaper (model : CostModel) (input : EncoderInput) : List Edge → List Edge → List Edge
  | [], best => best
  | e :: prev, [] => e :: prev
  | e :: prev, b :: bprev =>
    if model.finalTotal input e prev < model.finalTotal input b bprev then e :: prev else b :: bprev

theorem cheapest_cons (m : Nat) (slots : List Nat) (best : List Edge) :
    cheapest model input table (m :: slots) best =
      cheapest model input table slots (cheaper model input (slotAt table input.length m) best) := by
  cases hslot : slotAt table input.length m <;> cases best
  all_goals simp only [cheapest, hslot, cheaper]

theorem cheaper_eq (c best : List Edge) :
    cheaper model input c best = c ∨ cheaper model input c best = best := by
  match c, best with
  | [], _ => exact .inr rfl
  | _ :: _, [] => exact .inl rfl
  | e :: prev, b :: bprev => exact ite_eq_or_eq ..

/-- A chain of final total at most `k`. -/
def FinalAtMost (model : CostModel) (input : EncoderInput) (k : Nat) (chain : List Edge) : Prop :=
  ∃ e prev, chain = e :: prev ∧ model.finalTotal input e prev ≤ k

theorem finalAtMost_cheaper {k : Nat} {c best : List Edge}
    (h : FinalAtMost model input k c ∨ FinalAtMost model input k best) :
    FinalAtMost model input k (cheaper model input c best) := by
  obtain ⟨e, prev, rfl, hle⟩ | ⟨b, bprev, rfl, hle⟩ := h
  · cases best with
    | nil => exact ⟨e, prev, rfl, hle⟩
    | cons b bprev =>
      rw [cheaper]
      split
      case isTrue => exact ⟨e, prev, rfl, hle⟩
      case isFalse hnot => exact ⟨b, bprev, rfl, by omega⟩
  · cases c with
    | nil => exact ⟨b, bprev, rfl, hle⟩
    | cons e prev =>
      rw [cheaper]
      split
      case isTrue hlt => exact ⟨e, prev, rfl, by omega⟩
      case isFalse => exact ⟨b, bprev, rfl, hle⟩

/-- The choice is the chain of some slot, or the one it began with. -/
theorem cheapest_eq (slots : List Nat) (best : List Edge) :
    cheapest model input table slots best = best ∨
      ∃ m, cheapest model input table slots best = slotAt table input.length m := by
  induction slots generalizing best with
  | nil => exact .inl rfl
  | cons m slots ih =>
    rw [cheapest_cons]
    obtain h | h := ih (cheaper model input (slotAt table input.length m) best)
    · rw [h]
      exact (cheaper_eq _ best).symm.imp_right fun hm => ⟨m, hm⟩
    · exact .inr h

/-- The choice is no dearer than any chain it is made from. -/
theorem finalAtMost_cheapest {k : Nat} {slots : List Nat} {best : List Edge}
    (h : FinalAtMost model input k best ∨
      ∃ m ∈ slots, FinalAtMost model input k (slotAt table input.length m)) :
    FinalAtMost model input k (cheapest model input table slots best) := by
  induction slots generalizing best with
  | nil => exact h.resolve_right fun ⟨m, hm, _⟩ => absurd hm List.not_mem_nil
  | cons m slots ih =>
    rw [cheapest_cons]
    obtain hbest | ⟨n, hn, hslot⟩ := h
    · exact ih (.inl (finalAtMost_cheaper (.inr hbest)))
    obtain rfl | hn := List.mem_cons.1 hn
    · exact ih (.inl (finalAtMost_cheaper (.inl hslot)))
    · exact ih (.inr ⟨n, hn, hslot⟩)

end

/-! ### The statement -/

/-- Settles O60: at the end of the sweep the vertex a chain ends at holds one that is no dearer, with
the same final unlatch, and the choice at the end takes one no dearer than that. -/
theorem minimalPathIsCheapest : Obligations.MinimalPathIsCheapest := by
  unfold Obligations.MinimalPathIsCheapest
  intro model input costs e prev h
  obtain ⟨sound, covers⟩ := sweep_sound_covers costs
  obtain ⟨-, hmem, -, hend⟩ := isChain_cons_iff.1 h
  have hstart : e.start < 1 + input.length := by
    rw [hend]
    exact Nat.lt_one_add_iff.2 (Nat.le_add_right ..)
  obtain ⟨held, rest, hslot, hle⟩ := covers _ e prev h hstart
  have hheld : model.finalTotal input held rest ≤ model.finalTotal input e prev := by
    rw [CostModel.finalTotal, CostModel.finalTotal, (sound _ _ _ _ hslot).2]
    omega
  obtain ⟨best, bprev, hbest, htotal⟩ := finalAtMost_cheapest (table := sweep model input) (best := [])
    (.inr ⟨_, List.mem_range.2 (costs.slot_lt _ _ _ _ hmem e.total), held, rest, hslot, hheld⟩)
  obtain hnil | ⟨m, hm⟩ := cheapest_eq (table := sweep model input) (List.range model.slots) []
  · rw [hbest] at hnil
    cases hnil
  · exact ⟨best, bprev, by rw [minimalPath, hbest], (sound _ m _ _ (hm.symm.trans hbest)).1, htotal⟩

end Sys2Proof.Machine
end
